-- ==== Sys2Proof/Word.lean ====
section
/-! DEFINITION. The word types of the MSS-FXP block (spec 00 R8, R10): the 64-bit limb cell and window slot, the 32-bit
command word, the byte of a host access. -/

namespace Sys2Proof

/-- One 64-bit limb cell (`CELL_BITS` = 64, R8), and one slot of the host window (R81). -/
abbrev Cell := BitVec 64

/-- One command word (R110), and any 32-bit field of a control register. -/
abbrev Word := BitVec 32

/-- One byte of a host access (R82). -/
abbrev Byte := BitVec 8

end Sys2Proof
end

