-- ==== Sys2Proof/Config.lean ====
section
/-! DEFINITION. What an implementation of the block fixes: the parameters of 00_scope.md R8. The three OPEN ones are an
argument of the model (R8 "the model takes the first three as arguments"): `State` carries them as plain data, no step
changes them, and `State.resetWith` takes them (notes/assumptions/1.md). -/

namespace Sys2Proof

/-- The OPEN parameters of R8, read by the host in `CAP` (R52). -/
structure Params where
  /-- `LIMB_BITS`, written B: bits of a number held in one cell; 31 or 32 (D2). -/
  limbBits : Nat
  /-- `L_MAX`: the most limbs a register can hold; 1 to 63 (D3). -/
  lMax : Nat
  /-- `VCAP`: the lane capacity of a lane container; a multiple of 4 from 4 to 1024 (D3). -/
  vcap : Nat
  deriving DecidableEq, Repr

/-- The legal values of the OPEN parameters (R8). -/
abbrev Params.Legal (p : Params) : Prop :=
  (p.limbBits = 31 ∨ p.limbBits = 32) ∧ (1 ≤ p.lMax ∧ p.lMax ≤ 63) ∧
    (p.vcap % 4 = 0 ∧ 4 ≤ p.vcap ∧ p.vcap ≤ 1024)

/-- DESIGN CHOICE (notes/assumptions/1.md): the parameters of `State.reset`. B = 32 is the example format E1's, `L_MAX` = 8
and `VCAP` = 16 are those of 95_test_vectors.md §3. -/
def Params.chosen : Params where
  limbBits := 32
  lMax := 8
  vcap := 16

/-- `NSREG` (R8): the scalar registers. -/
abbrev numSRegs : Nat := 16

/-- `NVREG` (R8): the lane containers. -/
abbrev numVRegs : Nat := 8

/-- `W` (R8): lanes per lane group. -/
abbrev groupLanes : Nat := 4

end Sys2Proof
end

