-- ==== Sys2Proof/Syntax.lean ====
section
/-! DEFINITION. The commands of the block, one constructor per row of spec/opcode_table.json (30_encoding.md R115), with the
operands of R125 in its order: destination first, then the sources. -/

namespace Sys2Proof

/-- The representation a command reads and writes (R112). -/
inductive Rep where
  /-- Sign-magnitude: REP = 0, suffix `.SM`. -/
  | sm
  /-- Two's-complement: REP = 1, suffix `.2C`. -/
  | tc
  deriving DecidableEq, Repr

/-- A scalar register number `s0`..`s15` (R113: every value of the 4-bit field is legal). -/
abbrev SReg := Fin 16

/-- A lane container number `v0`..`v7` (R113: only 0..7 are legal). -/
abbrev VReg := Fin 8

/-- One command (R115). An immediate `k` is the signed integer of R114, a `lane` the unsigned one; their ranges are
`WellFormed`'s. -/
inductive Instr where
  | nop
  | construct
  | orst
  | upddone (rep : Rep) (va : VReg)
  | mov (sd sa : SReg)
  | ldz (sd : SReg)
  | ldmax (rep : Rep) (sd : SReg)
  | ldi (rep : Rep) (sd : SReg) (k : Int)
  | add (rep : Rep) (sd sa sb : SReg)
  | sub (rep : Rep) (sd sa sb : SReg)
  | mul (rep : Rep) (sd sa sb : SReg)
  | sqr (rep : Rep) (sd sa : SReg)
  | muli (rep : Rep) (sd sa : SReg) (k : Int)
  | cmpt (rep : Rep) (sa : SReg)
  | cmpm (sa sb : SReg)
  | totc (sd sa : SReg)
  | fromtc (sd sa : SReg)
  | split (rep : Rep) (sd : SReg)
  | join (rep : Rep) (sa : SReg)
  | limblen (sa : SReg)
  | tzlimb (sa : SReg)
  | chk (rep : Rep) (sa : SReg)
  | vmov (vd va : VReg)
  | vldz (vd : VReg)
  | vbcast (vd : VReg) (sa : SReg)
  | vext (sd : SReg) (va : VReg) (lane : Nat)
  | vins (vd : VReg) (sa : SReg) (lane : Nat)
  | vadd (rep : Rep) (vd va vb : VReg)
  | vsub (rep : Rep) (vd va vb : VReg)
  | vmul (rep : Rep) (vd va vb : VReg)
  | vsqr (rep : Rep) (vd va : VReg)
  | vmuli (rep : Rep) (vd va : VReg) (k : Int)
  | vcmpt (rep : Rep) (va : VReg)
  deriving DecidableEq, Repr

end Sys2Proof
end

