-- ==== Sys2Proof/WellFormed.lean ====
section
/-! DEFINITION. Which commands can be encoded (30_encoding.md R114): the immediates lie in their 12-bit ranges. Register
numbers are in range by their types (R113). -/

namespace Sys2Proof

/-- The range of a signed 12-bit immediate (R114). -/
abbrev SImmOk (k : Int) : Prop := -2048 ≤ k ∧ k ≤ 2047

/-- The range of an unsigned 12-bit immediate (R114). -/
abbrev LaneImmOk (lane : Nat) : Prop := lane ≤ 4095

/-- A command whose immediate, if it has one, fits its field (R114; outside it R125 has an assembly error). -/
def wellFormed : Instr → Bool
  | .ldi _ _ k => decide (SImmOk k)
  | .muli _ _ _ k => decide (SImmOk k)
  | .vmuli _ _ _ k => decide (SImmOk k)
  | .vext _ _ lane => decide (LaneImmOk lane)
  | .vins _ _ lane => decide (LaneImmOk lane)
  | .nop | .construct | .orst | .upddone _ _ | .mov _ _ | .ldz _ | .ldmax _ _ | .add _ _ _ _ | .sub _ _ _ _
  | .mul _ _ _ _ | .sqr _ _ _ | .cmpt _ _ | .cmpm _ _ | .totc _ _ | .fromtc _ _ | .split _ _ | .join _ _ | .limblen _
  | .tzlimb _ | .chk _ _ | .vmov _ _ | .vldz _ | .vbcast _ _ | .vadd _ _ _ _ | .vsub _ _ _ _ | .vmul _ _ _ _
  | .vsqr _ _ _ | .vcmpt _ _ => true

/-- The command can be encoded. -/
abbrev WellFormed (i : Instr) : Prop := wellFormed i = true

end Sys2Proof
end

