-- ==== Sys2Proof/Decode.lean ====
section
/-! DEFINITION. Command encoding (30_encoding.md R110 to R117): the fields of a command word, the decoder, which rejects an
illegal word by the clause of R116 that it breaks, and after it the encoder of R111, and the mask and match table. -/

namespace Sys2Proof

/-- The bit field `w[hi:lo]` as an unsigned number (R10). -/
def bits (w : Word) (hi lo : Nat) : Nat := w.toNat / 2 ^ lo % 2 ^ (hi - lo + 1)

/-- Why a command word is illegal: the clauses of R116. -/
inductive Illegal where
  /-- OPC is not in the opcode map. -/
  | opcode
  /-- Bits [11:9] are not 0, or the format is R and bits [31:24] are not 0. -/
  | reservedBits
  /-- A field marked 0 is not 0. -/
  | fieldNotZero
  /-- A field marked V has bit 3 set. -/
  | container
  /-- REP = 1 on a command marked "no REP". -/
  | repNotAllowed
  deriving DecidableEq, Repr

/-- Field OPC (R111). -/
def opcOf (w : Word) : Nat := bits w 7 0

/-- Field REP (R111, R112). -/
def repOf (w : Word) : Rep := if bits w 8 8 = 1 then .tc else .sm

/-- Field RD as a number (R111). -/
def rdOf (w : Word) : Nat := bits w 15 12

/-- Field RA as a number (R111). -/
def raOf (w : Word) : Nat := bits w 19 16

/-- Field RB as a number (R111). -/
def rbOf (w : Word) : Nat := bits w 23 20

/-- Field IMM12 as a number, unsigned (R111, R114). -/
def immOf (w : Word) : Nat := bits w 31 20

/-- `sext_12` of a 12-bit field (R10, R114). -/
def sext12 (n : Nat) : Int := if n < 2048 then (n : Int) else (n : Int) - 4096

/-- A field marked S (R113). -/
def sreg (n : Nat) : SReg := Fin.ofNat 16 n

/-- A field marked V (R113, R116). -/
def vreg (n : Nat) : Except Illegal VReg := if h : n < 8 then .ok ⟨n, h⟩ else .error .container

/-- A field marked 0 (R113, R116). -/
def zeroField (n : Nat) : Except Illegal Unit := if n = 0 then .ok () else .error .fieldNotZero

/-- REP must be 0 on a command marked "no REP" (R112, R116). -/
def noRep (w : Word) : Except Illegal Unit := if bits w 8 8 = 0 then .ok () else .error .repNotAllowed

/-- Bits [11:9] must be 0 (R116). -/
def reservedLow (w : Word) : Except Illegal Unit := if bits w 11 9 = 0 then .ok () else .error .reservedBits

/-- Format R: bits [31:24] must be 0 (R116). -/
def formatR (w : Word) : Except Illegal Unit := if bits w 31 24 = 0 then .ok () else .error .reservedBits

/-- The opcode map of R115, read by the fields of R111. -/
def decodeOp (w : Word) : Except Illegal Instr :=
  match opcOf w with
  | 0x00 => do formatR w; noRep w; zeroField (rdOf w); zeroField (raOf w); zeroField (rbOf w); .ok .nop
  | 0x01 => do formatR w; noRep w; zeroField (rdOf w); zeroField (raOf w); zeroField (rbOf w); .ok .construct
  | 0x02 => do formatR w; noRep w; zeroField (rdOf w); zeroField (raOf w); zeroField (rbOf w); .ok .orst
  | 0x03 => do formatR w; zeroField (rdOf w); let va ← vreg (raOf w); zeroField (rbOf w); .ok (.upddone (repOf w) va)
  | 0x10 => do formatR w; noRep w; zeroField (rbOf w); .ok (.mov (sreg (rdOf w)) (sreg (raOf w)))
  | 0x11 => do formatR w; noRep w; zeroField (raOf w); zeroField (rbOf w); .ok (.ldz (sreg (rdOf w)))
  | 0x12 => do formatR w; zeroField (raOf w); zeroField (rbOf w); .ok (.ldmax (repOf w) (sreg (rdOf w)))
  | 0x13 => do zeroField (raOf w); .ok (.ldi (repOf w) (sreg (rdOf w)) (sext12 (immOf w)))
  | 0x14 => do formatR w; .ok (.add (repOf w) (sreg (rdOf w)) (sreg (raOf w)) (sreg (rbOf w)))
  | 0x15 => do formatR w; .ok (.sub (repOf w) (sreg (rdOf w)) (sreg (raOf w)) (sreg (rbOf w)))
  | 0x16 => do formatR w; .ok (.mul (repOf w) (sreg (rdOf w)) (sreg (raOf w)) (sreg (rbOf w)))
  | 0x17 => do formatR w; zeroField (rbOf w); .ok (.sqr (repOf w) (sreg (rdOf w)) (sreg (raOf w)))
  | 0x18 => .ok (.muli (repOf w) (sreg (rdOf w)) (sreg (raOf w)) (sext12 (immOf w)))
  | 0x19 => do formatR w; zeroField (rdOf w); zeroField (rbOf w); .ok (.cmpt (repOf w) (sreg (raOf w)))
  | 0x1A => do formatR w; noRep w; zeroField (rdOf w); .ok (.cmpm (sreg (raOf w)) (sreg (rbOf w)))
  | 0x20 => do formatR w; noRep w; zeroField (rbOf w); .ok (.totc (sreg (rdOf w)) (sreg (raOf w)))
  | 0x21 => do formatR w; noRep w; zeroField (rbOf w); .ok (.fromtc (sreg (rdOf w)) (sreg (raOf w)))
  | 0x22 => do formatR w; zeroField (raOf w); zeroField (rbOf w); .ok (.split (repOf w) (sreg (rdOf w)))
  | 0x23 => do formatR w; zeroField (rdOf w); zeroField (rbOf w); .ok (.join (repOf w) (sreg (raOf w)))
  | 0x24 => do formatR w; noRep w; zeroField (rdOf w); zeroField (rbOf w); .ok (.limblen (sreg (raOf w)))
  | 0x25 => do formatR w; noRep w; zeroField (rdOf w); zeroField (rbOf w); .ok (.tzlimb (sreg (raOf w)))
  | 0x26 => do formatR w; zeroField (rdOf w); zeroField (rbOf w); .ok (.chk (repOf w) (sreg (raOf w)))
  | 0x30 => do formatR w; noRep w; let vd ← vreg (rdOf w); let va ← vreg (raOf w); zeroField (rbOf w); .ok (.vmov vd va)
  | 0x31 => do formatR w; noRep w; let vd ← vreg (rdOf w); zeroField (raOf w); zeroField (rbOf w); .ok (.vldz vd)
  | 0x32 => do formatR w; noRep w; let vd ← vreg (rdOf w); zeroField (rbOf w); .ok (.vbcast vd (sreg (raOf w)))
  | 0x33 => do noRep w; let va ← vreg (raOf w); .ok (.vext (sreg (rdOf w)) va (immOf w))
  | 0x34 => do noRep w; let vd ← vreg (rdOf w); .ok (.vins vd (sreg (raOf w)) (immOf w))
  | 0x35 => do formatR w; let vd ← vreg (rdOf w); let va ← vreg (raOf w); let vb ← vreg (rbOf w); .ok (.vadd (repOf w) vd va vb)
  | 0x36 => do formatR w; let vd ← vreg (rdOf w); let va ← vreg (raOf w); let vb ← vreg (rbOf w); .ok (.vsub (repOf w) vd va vb)
  | 0x37 => do formatR w; let vd ← vreg (rdOf w); let va ← vreg (raOf w); let vb ← vreg (rbOf w); .ok (.vmul (repOf w) vd va vb)
  | 0x38 => do formatR w; let vd ← vreg (rdOf w); let va ← vreg (raOf w); zeroField (rbOf w); .ok (.vsqr (repOf w) vd va)
  | 0x39 => do let vd ← vreg (rdOf w); let va ← vreg (raOf w); .ok (.vmuli (repOf w) vd va (sext12 (immOf w)))
  | 0x3A => do formatR w; zeroField (rdOf w); let va ← vreg (raOf w); zeroField (rbOf w); .ok (.vcmpt (repOf w) va)
  | _ => .error .opcode

/-- The decoder, total on command words: a command, or the clause of R116 that makes the word illegal. -/
def decode (w : Word) : Except Illegal Instr := do reservedLow w; decodeOp w

/-! ### The encoder (R111) -/

/-- The REP bit (R112). -/
def repBit : Rep → Nat
  | .sm => 0
  | .tc => 1

/-- Format R: `OPC | REP<<8 | RD<<12 | RA<<16 | RB<<20` (R111). -/
def wordR (opc rep rd ra rb : Nat) : Word :=
  BitVec.ofNat 32 (opc + rep * 2 ^ 8 + rd * 2 ^ 12 + ra * 2 ^ 16 + rb * 2 ^ 20)

/-- Format I: `OPC | REP<<8 | RD<<12 | RA<<16 | (IMM12 mod 4096)<<20` (R111). -/
def wordI (opc rep rd ra : Nat) (imm : Int) : Word :=
  BitVec.ofNat 32 (opc + rep * 2 ^ 8 + rd * 2 ^ 12 + ra * 2 ^ 16 + (imm % 4096).toNat * 2 ^ 20)

/-- The command word of a command (R111, R115). -/
def encode : Instr → Word
  | .nop => wordR 0x00 0 0 0 0
  | .construct => wordR 0x01 0 0 0 0
  | .orst => wordR 0x02 0 0 0 0
  | .upddone rep va => wordR 0x03 (repBit rep) 0 va 0
  | .mov sd sa => wordR 0x10 0 sd sa 0
  | .ldz sd => wordR 0x11 0 sd 0 0
  | .ldmax rep sd => wordR 0x12 (repBit rep) sd 0 0
  | .ldi rep sd k => wordI 0x13 (repBit rep) sd 0 k
  | .add rep sd sa sb => wordR 0x14 (repBit rep) sd sa sb
  | .sub rep sd sa sb => wordR 0x15 (repBit rep) sd sa sb
  | .mul rep sd sa sb => wordR 0x16 (repBit rep) sd sa sb
  | .sqr rep sd sa => wordR 0x17 (repBit rep) sd sa 0
  | .muli rep sd sa k => wordI 0x18 (repBit rep) sd sa k
  | .cmpt rep sa => wordR 0x19 (repBit rep) 0 sa 0
  | .cmpm sa sb => wordR 0x1A 0 0 sa sb
  | .totc sd sa => wordR 0x20 0 sd sa 0
  | .fromtc sd sa => wordR 0x21 0 sd sa 0
  | .split rep sd => wordR 0x22 (repBit rep) sd 0 0
  | .join rep sa => wordR 0x23 (repBit rep) 0 sa 0
  | .limblen sa => wordR 0x24 0 0 sa 0
  | .tzlimb sa => wordR 0x25 0 0 sa 0
  | .chk rep sa => wordR 0x26 (repBit rep) 0 sa 0
  | .vmov vd va => wordR 0x30 0 vd va 0
  | .vldz vd => wordR 0x31 0 vd 0 0
  | .vbcast vd sa => wordR 0x32 0 vd sa 0
  | .vext sd va lane => wordI 0x33 0 sd va lane
  | .vins vd sa lane => wordI 0x34 0 vd sa lane
  | .vadd rep vd va vb => wordR 0x35 (repBit rep) vd va vb
  | .vsub rep vd va vb => wordR 0x36 (repBit rep) vd va vb
  | .vmul rep vd va vb => wordR 0x37 (repBit rep) vd va vb
  | .vsqr rep vd va => wordR 0x38 (repBit rep) vd va 0
  | .vmuli rep vd va k => wordI 0x39 (repBit rep) vd va k
  | .vcmpt rep va => wordR 0x3A (repBit rep) 0 va 0

/-! ### The mask and match table (R116) -/

/-- One row of spec/opcode_table.json: its mnemonic, mask and match. -/
structure Row where
  mnemonic : String
  mask : Word
  pattern : Word
  deriving DecidableEq, Repr

/-- The rows of spec/opcode_table.json (R116: a word is legal exactly when some row matches it). -/
def opcodeTable : List Row := [
  { mnemonic := "NOP", mask := 0xFFFFFFFF, pattern := 0x00000000 },
  { mnemonic := "CONSTRUCT", mask := 0xFFFFFFFF, pattern := 0x00000001 },
  { mnemonic := "ORST", mask := 0xFFFFFFFF, pattern := 0x00000002 },
  { mnemonic := "UPDDONE", mask := 0xFFF8FEFF, pattern := 0x00000003 },
  { mnemonic := "MOV", mask := 0xFFF00FFF, pattern := 0x00000010 },
  { mnemonic := "LDZ", mask := 0xFFFF0FFF, pattern := 0x00000011 },
  { mnemonic := "LDMAX", mask := 0xFFFF0EFF, pattern := 0x00000012 },
  { mnemonic := "LDI", mask := 0x000F0EFF, pattern := 0x00000013 },
  { mnemonic := "ADD", mask := 0xFF000EFF, pattern := 0x00000014 },
  { mnemonic := "SUB", mask := 0xFF000EFF, pattern := 0x00000015 },
  { mnemonic := "MUL", mask := 0xFF000EFF, pattern := 0x00000016 },
  { mnemonic := "SQR", mask := 0xFFF00EFF, pattern := 0x00000017 },
  { mnemonic := "MULI", mask := 0x00000EFF, pattern := 0x00000018 },
  { mnemonic := "CMPT", mask := 0xFFF0FEFF, pattern := 0x00000019 },
  { mnemonic := "CMPM", mask := 0xFF00FFFF, pattern := 0x0000001A },
  { mnemonic := "TOTC", mask := 0xFFF00FFF, pattern := 0x00000020 },
  { mnemonic := "FROMTC", mask := 0xFFF00FFF, pattern := 0x00000021 },
  { mnemonic := "SPLIT", mask := 0xFFFF0EFF, pattern := 0x00000022 },
  { mnemonic := "JOIN", mask := 0xFFF0FEFF, pattern := 0x00000023 },
  { mnemonic := "LIMBLEN", mask := 0xFFF0FFFF, pattern := 0x00000024 },
  { mnemonic := "TZLIMB", mask := 0xFFF0FFFF, pattern := 0x00000025 },
  { mnemonic := "CHK", mask := 0xFFF0FEFF, pattern := 0x00000026 },
  { mnemonic := "VMOV", mask := 0xFFF88FFF, pattern := 0x00000030 },
  { mnemonic := "VLDZ", mask := 0xFFFF8FFF, pattern := 0x00000031 },
  { mnemonic := "VBCAST", mask := 0xFFF08FFF, pattern := 0x00000032 },
  { mnemonic := "VEXT", mask := 0x00080FFF, pattern := 0x00000033 },
  { mnemonic := "VINS", mask := 0x00008FFF, pattern := 0x00000034 },
  { mnemonic := "VADD", mask := 0xFF888EFF, pattern := 0x00000035 },
  { mnemonic := "VSUB", mask := 0xFF888EFF, pattern := 0x00000036 },
  { mnemonic := "VMUL", mask := 0xFF888EFF, pattern := 0x00000037 },
  { mnemonic := "VSQR", mask := 0xFFF88EFF, pattern := 0x00000038 },
  { mnemonic := "VMULI", mask := 0x00088EFF, pattern := 0x00000039 },
  { mnemonic := "VCMPT", mask := 0xFFF8FEFF, pattern := 0x0000003A }]

/-- Row `r` matches the word: `w AND mask = match` (R116). -/
def rowMatches (r : Row) (w : Word) : Bool := w &&& r.mask == r.pattern

/-! ### Bytes of a host access (R82) -/

/-- The unsigned value of bytes listed from the lowest offset up: byte i is bits [8i+7:8i] (R82). -/
def leValue : List Byte → Nat
  | [] => 0
  | b :: bs => b.toNat + 2 ^ 8 * leValue bs

/-- The `n` bytes of a value, lowest offset first (R82). -/
def leBytes : Nat → Nat → List Byte
  | 0, _ => []
  | n + 1, v => BitVec.ofNat 8 v :: leBytes n (v / 2 ^ 8)

/-- The command word of a 64-bit value written to `COMMAND`: bits [31:0]; bits [63:32] are ignored (R64). -/
def commandWord (v : Cell) : Word := v.setWidth 32

/-- The command a table word stands for: the word as the 8 bytes the host writes to `COMMAND`, decoded. -/
def decodeTableWord (nbits w : Nat) : Option Instr :=
  match decode (commandWord (BitVec.ofNat 64 (leValue (leBytes 8 (w % 2 ^ nbits))))) with
  | .ok i => some i
  | .error _ => none

end Sys2Proof
end

