-- ==== Sys2Proof/Machine/State.lean ====
section
/-! DEFINITION. The machine's state (10_state.md R30: "exactly" the state listed there) as plain data, the reasons a step can
stop, and the state right after reset (70_reset_and_hazards.md R340). Sizes that depend on the parameters of R8 are list
lengths; `State.Inv` (Safety.lean) says what they are. -/

namespace Sys2Proof.Machine

/-- One Number (R31): its limb cells, least significant first (`L_MAX` of them, R83), and its sign bit, true for positive
(R33). -/
structure Number where
  cells : List Cell
  sign : Bool
  deriving DecidableEq, Repr

/-- One lane container (R34), as its lanes' Numbers: `lane(v, n)` of R11 is entry n (`VCAP` of them). -/
abbrev Container := List Number

/-- One move of the world at the block's port, in the total order of R92. -/
inductive HostEvent where
  /-- A host read of `width` bytes at a window offset (R81; the window is 8 MiB, R80). -/
  | read (offset : BitVec 23) (width : Nat)
  /-- A host write of the listed bytes, the lowest offset's first (R82); its width is their number. -/
  | write (offset : BitVec 23) (data : List Byte)
  /-- The reset input, between two host accesses (R340). -/
  | reset
  deriving DecidableEq, Repr

/-- The state of the block (R30), with the parameters it was elaborated with (R8) and the model's own two fields for the
host port (`host`, `hostData`; notes/assumptions/4.md, 6.md). -/
structure State where
  /-- The parameters of R8; `CAP` reads them (R52). No step changes them. -/
  params : Params
  /-- The scalar registers `S[0..15]` (R31). -/
  sregs : Vector Number 16
  /-- The lane containers `V[0..7]` (R34). -/
  vregs : Vector Container 8
  /-- `INPLAY[g]`, g < VCAP/4 (R38). -/
  inplay : List Bool
  /-- `DONE[n]`, n < VCAP (R39). -/
  done : List Bool
  /-- `ESC[n]`, n < VCAP (R40). -/
  esc : List Bool
  /-- `COUNT[n]`, n < VCAP (R41). -/
  count : List (BitVec 16)
  /-- `RAW[0..63]` (R42). -/
  raw : Vector Cell 64
  /-- `RAW_EXP` (R67). -/
  rawExp : Word
  /-- `RAW_SIGN` (R68). -/
  rawSign : Bool
  /-- `CTRL.FIE` (R53). -/
  fie : Bool
  /-- `CTRL.DIE` (R53). -/
  die : Bool
  /-- `STATUS.CONFIGURED` (R54). -/
  configured : Bool
  /-- `STATUS.GE` (R54). -/
  ge : Bool
  /-- `STATUS.CMP` (R54). -/
  cmp : BitVec 2
  /-- `STATUS.VALID` (R54). -/
  valid : Bool
  /-- `STATUS.DROPPED` (R54). -/
  dropped : Bool
  /-- `STATUS.BUSERR` (R54). -/
  buserr : Bool
  /-- `FAULT.CAUSE` (R55). -/
  faultCause : BitVec 8
  /-- `FAULT.V` (R55); `STATUS.FAULTED` is a copy of it (R54). -/
  faultV : Bool
  /-- `FAULT_CMD` (R55). -/
  faultCmd : Word
  /-- `FAULT_LANE` (R55). -/
  faultLane : Word
  /-- `FAULT_SEQ` (R55). -/
  faultSeq : Word
  /-- `CMDCNT` (R65). -/
  cmdcnt : Word
  /-- `RES` (R66). -/
  res : Word
  /-- `CFG_BBP` (R56). -/
  cfgBbp : BitVec 8
  /-- `CFG_FRAC` (R57). -/
  cfgFrac : BitVec 16
  /-- `CFG_THRESH` (R58). -/
  cfgThresh : Word
  /-- `CFG_VCOUNT` (R59). -/
  cfgVcount : BitVec 16
  /-- `TARGET` (R60). -/
  target : BitVec 16
  /-- `FMT.I` (R61). -/
  fmtI : BitVec 8
  /-- `FMT.F` (R61). -/
  fmtF : BitVec 16
  /-- `FMT.L` (R61). -/
  fmtL : BitVec 8
  /-- `FMT.T` (R61). -/
  fmtT : BitVec 16
  /-- `THRESH_MSL` (R62). -/
  threshMsl : Cell
  /-- `VCOUNT` (R62). -/
  vcount : BitVec 16
  /-- `ACARRY` (R63). -/
  acarry : Word
  /-- `MCARRY` (R63). -/
  mcarry : Word
  /-- The model's own: the host's moves not yet served, the next one first (R92; notes/assumptions/4.md). -/
  host : List HostEvent
  /-- The model's own: the bytes the last host read returned, the lowest offset's first (notes/assumptions/6.md). -/
  hostData : List Byte
  deriving DecidableEq, Repr

/-- Why the machine stops. A fault of the HARDWARE is no stop: it is recorded in the state (R311, `State.record`). -/
inductive Fault where
  /-- Raised by `step` when the host has no further move: the block never acts on its own (93_implementation_defined.md H2,
  treatment `stuck`). Safe: the model stops where the block waits. -/
  | hostIdle
  deriving DecidableEq, Repr

/-- Why the model gives an instruction no meaning. -/
inductive Refusal where
  /-- Raised by an arm of `exec` whose instruction has no meaning yet; no arm raises it. Safe. -/
  | notModelled (mnemonic : String)
  deriving DecidableEq, Repr

/-- The data of a Number after reset: R31 and R34 leave it unspecified. DESIGN CHOICE, unsafe (notes/assumptions/2.md):
cells and sign bit 0. -/
def Number.atReset (p : Params) : Number where
  cells := List.replicate p.lMax 0
  sign := false

/-- The state after reset (R340) of a block with the given parameters. The reset values R340 leaves unspecified (registers,
lanes, `COUNT`, `RAW`) are 0: DESIGN CHOICE, unsafe (notes/assumptions/2.md, 3.md). -/
def State.resetWith (p : Params) : State where
  params := p
  sregs := Vector.replicate 16 (Number.atReset p)
  vregs := Vector.replicate 8 (List.replicate p.vcap (Number.atReset p))
  inplay := List.replicate (p.vcap / 4) false
  done := List.replicate p.vcap false
  esc := List.replicate p.vcap false
  count := List.replicate p.vcap 0
  raw := Vector.replicate 64 0
  rawExp := 0
  rawSign := true
  fie := false
  die := false
  configured := false
  ge := false
  cmp := 0
  valid := false
  dropped := false
  buserr := false
  faultCause := 0
  faultV := false
  faultCmd := 0
  faultLane := 0
  faultSeq := 0
  cmdcnt := 0
  res := 0
  cfgBbp := 0
  cfgFrac := 0
  cfgThresh := 0
  cfgVcount := 0
  target := 0
  fmtI := 0
  fmtF := 0
  fmtL := 0
  fmtT := 0
  threshMsl := 0
  vcount := 0
  acarry := 0
  mcarry := 0
  host := []
  hostData := []

/-- The machine right after reset (R340), with the parameters of `Params.chosen` (notes/assumptions/1.md). -/
def State.reset : State := State.resetWith Params.chosen

end Sys2Proof.Machine
end

