-- ==== Sys2Proof/Machine/Format.lean ====
section
/-! DEFINITION. The numeric functions of 40_format_codec.md §1 and §2, each defined once (R13): the scaled integer a Number
holds, the validators, the ranges, the encodings and the additive clamp. -/

namespace Sys2Proof.Machine

/-- The format numbers are in: B of R8 and the fields of `FMT` (R9, R61). -/
structure Format where
  b : Nat
  i : Nat
  f : Nat
  l : Nat
  t : Nat
  deriving DecidableEq, Repr

/-- The format in force (R9: `FMT`, with B of the block). -/
def State.format (s : State) : Format where
  b := s.params.limbBits
  i := s.fmtI.toNat
  f := s.fmtF.toNat
  l := s.fmtL.toNat
  t := s.fmtT.toNat

/-- `Σ_{k<n} g k`. -/
def sumBelow : Nat → (Nat → Nat) → Nat
  | 0, _ => 0
  | n + 1, g => sumBelow n g + g n

/-- `a.cell[k]` (R11). -/
def Number.cell (a : Number) (k : Nat) : Cell := a.cells.getD k 0

/-! ### Values (R140, R141) -/

/-- `d_k(a)`: the digit of cell k (R140). -/
def digit (f : Format) (a : Number) (k : Nat) : Nat := (a.cell k).toNat % 2 ^ f.b

/-- `mag(a)`: over whole cells (R140). -/
def mag (f : Format) (a : Number) : Nat := sumBelow f.l fun k => (a.cell k).toNat * 2 ^ (f.b * k)

/-- `X_SM(a)` (R140). -/
def xSM (f : Format) (a : Number) : Int :=
  if a.sign || mag f a == 0 then (mag f a : Int) else -(mag f a : Int)

/-- `W(a)`: over digits (R141). -/
def wordValue (f : Format) (a : Number) : Nat := sumBelow f.l fun k => digit f a k * 2 ^ (f.b * k)

/-- `X_2C(a)` (R141): bit T−1 of `W(a)` is the sign bit. -/
def x2C (f : Format) (a : Number) : Int :=
  if (wordValue f a).testBit (f.t - 1) then (wordValue f a : Int) - 2 ^ f.t else (wordValue f a : Int)

/-! ### Validity (R142, R143) -/

/-- `valid_SM(a)` (R142). -/
def validSM (f : Format) (a : Number) : Bool :=
  (List.range f.l).all fun k => decide ((a.cell k).toNat < 2 ^ f.b)

/-- `valid_2C(a)` (R143): the lower cells are bare digits, and bits [63:B−1] of the top cell are all 0 or all 1. -/
def valid2C (f : Format) (a : Number) : Bool :=
  ((List.range (f.l - 1)).all fun k => decide ((a.cell k).toNat < 2 ^ f.b)) &&
    ((a.cell (f.l - 1)).toNat / 2 ^ (f.b - 1) == 0 ||
      (a.cell (f.l - 1)).toNat / 2 ^ (f.b - 1) == 2 ^ (64 - (f.b - 1)) - 1)

/-! ### Ranges and encodings (R146 to R148) -/

/-- `inrange_SM(X)` (R146). -/
def inrangeSM (f : Format) (x : Int) : Bool := decide (-(2 ^ f.t : Int) < x ∧ x < 2 ^ f.t)

/-- `inrange_2C(X)` (R146). -/
def inrange2C (f : Format) (x : Int) : Bool := decide (-(2 ^ (f.t - 1) : Int) ≤ x ∧ x < 2 ^ (f.t - 1))

/-- Digit k of an unsigned integer in base 2^B (R147, R150). -/
def natDigit (b u k : Nat) : Nat := u / 2 ^ (b * k) % 2 ^ b

/-- `enc_SM(X)` (R147): its L cells and its sign. -/
def encSM (f : Format) (x : Int) : Number where
  cells := (List.range f.l).map fun k => BitVec.ofNat 64 (natDigit f.b x.natAbs k)
  sign := decide (0 ≤ x)

/-- Cell k of `enc_2C` from `U = X mod 2^T` (R148): the top cell is its digit sign-extended from bit B−1. -/
def enc2CCell (f : Format) (u k : Nat) : Nat :=
  if k + 1 = f.l ∧ 2 ^ (f.b - 1) ≤ natDigit f.b u k then natDigit f.b u k + 2 ^ 64 - 2 ^ f.b else natDigit f.b u k

/-- `enc_2C(X)` (R148): its L cells and its sign. -/
def enc2C (f : Format) (x : Int) : Number where
  cells := (List.range f.l).map fun k => BitVec.ofNat 64 (enc2CCell f (x % 2 ^ f.t).toNat k)
  sign := decide (0 ≤ x)

/-! ### Selection by REP (R144) -/

/-- `X_REP`. -/
def xRep (f : Format) : Rep → Number → Int
  | .sm, a => xSM f a
  | .tc, a => x2C f a

/-- `valid_REP`. -/
def validRep (f : Format) : Rep → Number → Bool
  | .sm, a => validSM f a
  | .tc, a => valid2C f a

/-- `inrange_REP`. -/
def inrangeRep (f : Format) : Rep → Int → Bool
  | .sm, x => inrangeSM f x
  | .tc, x => inrange2C f x

/-- `enc_REP`. -/
def encRep (f : Format) : Rep → Int → Number
  | .sm, x => encSM f x
  | .tc, x => enc2C f x

/-- The scaled maximum integer: (2^I − 1) × 2^F in SM, (2^(I−1) − 1) × 2^F in 2C (R156). -/
def maxInteger (f : Format) : Rep → Int
  | .sm => (2 ^ f.i - 1) * 2 ^ f.f
  | .tc => (2 ^ (f.i - 1) - 1) * 2 ^ f.f

/-- `clamp_REP(s)`, s = +1 or −1 (R156). -/
def clampRep (f : Format) (rep : Rep) (s : Int) : Number := encRep f rep (s * maxInteger f rep)

/-! ### Writing a Number (R149, R32) -/

/-- `old` with the Number `new` written over it: cells 0..L−1 and the sign; cells k ≥ L are unchanged (R149). -/
def Number.overwrite (l : Nat) (old new : Number) : Number where
  cells := old.cells.mapIdx fun k c => if k < l then new.cell k else c
  sign := new.sign

/-- The Number whose every cell is 0 and whose sign is 1: what `CONSTRUCT` writes (R160). -/
def Number.cleared (p : Params) : Number where
  cells := List.replicate p.lMax 0
  sign := true

end Sys2Proof.Machine
end

