-- ==== Sys2Proof/Machine/Multiply.lean ====
section
/-! DEFINITION. The multiplication datapath of 40_format_codec.md §3: the partial-product bins, carry propagation and
shift-and-trim. Bins are exact accumulators that exist inside one command only (R43, R150). -/

namespace Sys2Proof.Machine

/-- `bin[k] <- bin[k] + v`. -/
def addToBin (bins : List Nat) (k v : Nat) : List Nat := bins.modify k (· + v)

/-- One partial product p accumulated at position k: its low half into bin k, its high half into bin k+1 (R150, R151). -/
def accumulate (b : Nat) (bins : List Nat) (k p : Nat) : List Nat :=
  addToBin (addToBin bins k (p % 2 ^ b)) (k + 1) (p / 2 ^ b)

/-- `bins_mul(A, C)` (R150). -/
def binsMul (f : Format) (a c : Nat) : List Nat :=
  (List.range f.l).foldl (fun bins j =>
    (List.range f.l).foldl (fun bins i => accumulate f.b bins (j + i) (natDigit f.b a j * natDigit f.b c i)) bins)
    (List.replicate (2 * f.l) 0)

/-- `bins_sqr(A)` (R151): the upper triangle, off-diagonal products doubled before the split. -/
def binsSqr (f : Format) (a : Nat) : List Nat :=
  (List.range f.l).foldl (fun bins j =>
    (List.range' j (f.l - j)).foldl (fun bins i =>
      let p := natDigit f.b a j * natDigit f.b a i
      accumulate f.b bins (j + i) (if i ≠ j then 2 * p else p)) bins)
    (List.replicate (2 * f.l) 0)

/-- `bins_muli(A, m)` (R151): L+1 bins. -/
def binsMuli (f : Format) (a m : Nat) : List Nat :=
  (List.range f.l).foldl (fun bins i => accumulate f.b bins i (natDigit f.b a i * m)) (List.replicate (f.l + 1) 0)

/-- What `sum_partials` returns (R152): the digits r and `mcarries`. -/
structure Partials where
  digits : List Nat
  mcarries : Nat
  deriving DecidableEq, Repr

/-- The loop of `sum_partials` (R152) with the carry c coming in: a carry out of any bin but the last is counted. -/
def sumPartialsFrom (b : Nat) : Nat → List Nat → Partials
  | _, [] => { digits := [], mcarries := 0 }
  | c, bin :: bins =>
    let s := bin + c
    let rest := sumPartialsFrom b (s / 2 ^ b) bins
    { digits := s % 2 ^ b :: rest.digits
      mcarries := rest.mcarries + if s / 2 ^ b ≠ 0 ∧ bins ≠ [] then 1 else 0 }

/-- `sum_partials` (R152). -/
def sumPartials (b : Nat) (bins : List Nat) : Partials := sumPartialsFrom b 0 bins

/-- `Σ_k r[k] × 2^(B·k)` of digits or bins (R150, R152). -/
def weightedSum (b : Nat) : List Nat → Nat
  | [] => 0
  | r :: rs => r + 2 ^ b * weightedSum b rs

/-- `ShiftAndTrim`, as a value: `P div 2^F` (R153). -/
def shiftAndTrim (f : Format) (digits : List Nat) : Nat := weightedSum f.b digits / 2 ^ f.f

/-- `bitlen(x)` (R10): the least n with x < 2^n. -/
def bitlen (x : Nat) : Nat := if x = 0 then 0 else x.log2 + 1

end Sys2Proof.Machine
end

