-- ==== Sys2Proof/Machine/Ops.lean ====
section
/-! DEFINITION. The named operations every command is written over: reading and writing registers, lanes and lane flags, the
counters, and the execution procedure of 60_exceptions.md R310 with the entry to a fault (R311) and the return (R315). -/

namespace Sys2Proof.Machine

/-! ### Registers and lanes -/

/-- `S[r]` (R11). -/
def State.sregAt (s : State) (r : SReg) : Number := s.sregs[r]

/-- `V[v]` (R11). -/
def State.vregAt (s : State) (v : VReg) : Container := s.vregs[v]

/-- `lane(v, n)` (R11). A lane n ≥ `VCAP` does not exist; no command names one (notes/assumptions/9.md). -/
def State.laneAt (s : State) (v : VReg) (n : Nat) : Number := (s.vregAt v).getD n { cells := [], sign := false }

/-- `S[r] <- N` (R149). -/
def State.writeSreg (s : State) (r : SReg) (a : Number) : State :=
  { s with sregs := s.sregs.set r ((s.sregAt r).overwrite s.format.l a) }

/-- `V[v].lane[n] <- N` (R149). -/
def State.writeLane (s : State) (v : VReg) (n : Nat) (a : Number) : State :=
  { s with vregs := s.vregs.set v ((s.vregAt v).modify n (Number.overwrite s.format.l · a)) }

/-! ### Lane flags and counts -/

/-- `INPLAY[g]` (R38). -/
def State.inplayAt (s : State) (g : Nat) : Bool := s.inplay.getD g false

/-- `DONE[n]` (R39). -/
def State.doneAt (s : State) (n : Nat) : Bool := s.done.getD n false

/-- `ESC[n]` (R40). -/
def State.escAt (s : State) (n : Nat) : Bool := s.esc.getD n false

/-- `COUNT[n]` (R41). -/
def State.countAt (s : State) (n : Nat) : BitVec 16 := s.count.getD n 0

/-- `DONE[n] <- 1` (R250, R283). -/
def State.markDone (s : State) (n : Nat) : State := { s with done := s.done.set n true }

/-- Lane n is active (R240). -/
def State.isActive (s : State) (n : Nat) : Bool :=
  decide (n < s.vcount.toNat) && s.inplayAt (n / 4) && !s.doneAt n

/-- `act`: the active lanes, ascending (R241). -/
def State.activeLanes (s : State) : List Nat := (List.range s.vcount.toNat).filter s.isActive

/-- `orchestrator_reset(N)` (R282). -/
def State.orchestratorReset (s : State) (n : Nat) : State :=
  { s with
    inplay := (List.range (s.params.vcap / 4)).map fun g => decide (g < n / 4)
    done := List.replicate s.params.vcap false
    esc := List.replicate s.params.vcap false
    count := List.replicate s.params.vcap 0 }

/-! ### Results, flags and counters -/

/-- `MCARRY <- (MCARRY + n) mod 2^32` (R152, R63). -/
def State.addMcarry (s : State) (n : Nat) : State := { s with mcarry := s.mcarry + BitVec.ofNat 32 n }

/-- `ACARRY <- (ACARRY + 1) mod 2^32` (R204, R63). -/
def State.bumpAcarry (s : State) : State := { s with acarry := s.acarry + 1 }

/-- `STATUS.GE <- b` (R209). -/
def State.setGe (s : State) (b : Bool) : State := { s with ge := b }

/-- `STATUS.CMP <- c` (R210). -/
def State.setCmp (s : State) (c : BitVec 2) : State := { s with cmp := c }

/-- `STATUS.VALID <- b` (R174). -/
def State.setValid (s : State) (b : Bool) : State := { s with valid := b }

/-- `RES <- n` (R175, R176). -/
def State.setRes (s : State) (n : Nat) : State := { s with res := BitVec.ofNat 32 n }

/-! ### Faults (R300, R310, R311, R315) -/

/-- The causes of R300. -/
inductive Cause where
  | illegalCommand
  | notConfigured
  | formatViolation
  | thresholdRange
  | valuecountAlign
  | laneRange
  | operandInvalid
  | mulOverflow
  | convOverflow
  | convRange
  deriving DecidableEq, Repr

/-- The codes of R300. -/
def Cause.code : Cause → BitVec 8
  | .illegalCommand => 0x01
  | .notConfigured => 0x02
  | .formatViolation => 0x03
  | .thresholdRange => 0x04
  | .valuecountAlign => 0x05
  | .laneRange => 0x06
  | .operandInvalid => 0x07
  | .mulOverflow => 0x08
  | .convOverflow => 0x09
  | .convRange => 0x0A

/-- `raise Fault(cause, lane)` (R12). -/
structure Raised where
  cause : Cause
  lane : Word
  deriving DecidableEq, Repr

/-- The `FAULT_LANE` of a fault that belongs to no lane (R12, R55). -/
def noLane : Word := 0xFFFFFFFF

/-- A fault that belongs to no lane. -/
def Raised.unlaned (c : Cause) : Raised := { cause := c, lane := noLane }

/-- A fault at lane n (R241). -/
def Raised.atLane (c : Cause) (n : Nat) : Raised := { cause := c, lane := BitVec.ofNat 32 n }

/-- Taking a fault: `record(cause, lane)` of R310, for the command word `w` with sequence number `seq`. It writes the fault
record and nothing else (R311). -/
def State.record (s : State) (w seq : Word) (r : Raised) : State :=
  { s with faultCause := r.cause.code, faultV := true, faultCmd := w, faultLane := r.lane, faultSeq := seq }

/-- Returning from a fault: the host's clearing write (R315). Nothing is restored, because nothing was changed. -/
def State.clearFault (s : State) : State :=
  { s with faultCause := 0, faultV := false, faultCmd := 0, faultLane := 0, faultSeq := 0 }

/-- A command written while a fault is recorded (R316). -/
def State.drop (s : State) : State := { s with dropped := true }

/-- A command is accepted: it takes the current `CMDCNT` as its sequence number and increments it (R65, R310). -/
def State.accept (s : State) : State := { s with cmdcnt := s.cmdcnt + 1 }

/-- The command faults: only `CMDCNT` and the fault record change (R310, R312). -/
def State.faulted (s : State) (w : Word) (r : Raised) : State := s.accept.record w s.cmdcnt r

/-- Command execution (R310) of the command word `w`, for a legal command: dropped while a fault is recorded; accepted; not
configured; then the command's own rule on a tentative copy, which a fault discards. -/
def runCommand (needsConfig : Bool) (w : Word) (rule : State → Except Raised State) (s : State) :
    Host.Outcome State Fault Refusal :=
  if s.faultV then .next s.drop
  else if needsConfig && !s.configured then .next (s.faulted w (.unlaned .notConfigured))
  else
    match rule s.accept with
    | .error r => .next (s.faulted w r)
    | .ok s' => .next s'

/-- Command execution (R310) of an illegal word. -/
def runIllegal (w : Word) (s : State) : Host.Outcome State Fault Refusal :=
  if s.faultV then .next s.drop else .next (s.faulted w (.unlaned .illegalCommand))

end Sys2Proof.Machine
end

