-- ==== Sys2Proof/Machine/Operands.lean ====
section
/-! DEFINITION. Operand forms and the per-Number arithmetic: how a Number operand is read and validated (41 R200, 40 R145),
the operations of 41_scalar_engine.md on Numbers, which the scalar commands apply to registers and the vector commands to
lanes (42 R241), and how a result is committed. -/

namespace Sys2Proof.Machine

/-- `operand(a)` (R200): validated, then turned into its scaled integer. -/
def operand (f : Format) (rep : Rep) (a : Number) : Except Cause Int :=
  if validRep f rep a then .ok (xRep f rep a) else .error .operandInvalid

/-- What an arithmetic operation gives: the Number to write, `mcarries`, and whether it saturated. -/
structure Result where
  value : Number
  mcarries : Nat
  saturated : Bool
  deriving DecidableEq, Repr

/-- A result with no counter effect. -/
def Result.plain (a : Number) : Result := { value := a, mcarries := 0, saturated := false }

/-- A product X with carry count n: encoded when it fits the representation, else `MUL_OVERFLOW` (R201, R202, R203). -/
def productResult (f : Format) (rep : Rep) (x : Int) (n : Nat) : Except Cause Result :=
  if inrangeRep f rep x then .ok { value := encRep f rep x, mcarries := n, saturated := false } else .error .mulOverflow

/-- M with the sign a product of operands of these signs has (R201: positive exactly when they are equal). -/
def signedProduct (xa xb : Int) (m : Nat) : Int := if decide (0 < xa) = decide (0 < xb) then (m : Int) else -(m : Int)

/-- Multiply (R201). -/
def opMul (f : Format) (rep : Rep) (a b : Number) : Except Cause Result := do
  let xa ← operand f rep a
  let xb ← operand f rep b
  if xa = 0 ∨ xb = 0 then .ok (.plain (encRep f rep 0))
  else
    let p := sumPartials f.b (binsMul f xa.natAbs xb.natAbs)
    productResult f rep (signedProduct xa xb (shiftAndTrim f p.digits)) p.mcarries

/-- Square (R202). -/
def opSqr (f : Format) (rep : Rep) (a : Number) : Except Cause Result := do
  let xa ← operand f rep a
  if xa = 0 then .ok (.plain (encRep f rep 0))
  else
    let p := sumPartials f.b (binsSqr f xa.natAbs)
    productResult f rep (shiftAndTrim f p.digits : Nat) p.mcarries

/-- Multiply by a small integer (R203): the static bit-length check, then the range check. -/
def opMuli (f : Format) (rep : Rep) (a : Number) (k : Int) : Except Cause Result := do
  let xa ← operand f rep a
  if xa = 0 ∨ k = 0 then .ok (.plain (encRep f rep 0))
  else if bitlen (xa.natAbs / 2 ^ f.f) + bitlen k.natAbs > f.i then .error .mulOverflow
  else
    let p := sumPartials f.b (binsMuli f xa.natAbs k.natAbs)
    productResult f rep (signedProduct xa k (weightedSum f.b p.digits)) p.mcarries

/-- An exact sum or difference V: encoded, or clamped with the sign of V when it is out of range (R204). -/
def saturate (f : Format) (rep : Rep) (v : Int) : Result :=
  if inrangeRep f rep v then .plain (encRep f rep v)
  else { value := clampRep f rep (if 0 < v then 1 else -1), mcarries := 0, saturated := true }

/-- Add with saturation (R204). -/
def opAdd (f : Format) (rep : Rep) (a b : Number) : Except Cause Result := do
  let xa ← operand f rep a
  let xb ← operand f rep b
  .ok (saturate f rep (xa + xb))

/-- Subtract with saturation (R205). -/
def opSub (f : Format) (rep : Rep) (a b : Number) : Except Cause Result := do
  let xa ← operand f rep a
  let xb ← operand f rep b
  .ok (saturate f rep (xa - xb))

/-! ### Scalar commands -/

/-- The counters of a result: `MCARRY` += mcarries, `ACARRY` += 1 on saturation (R152, R204). -/
def State.countResult (s : State) (r : Result) : State :=
  if r.saturated then (s.addMcarry r.mcarries).bumpAcarry else s.addMcarry r.mcarries

/-- A scalar command's result: written to `S[RD]`, its counters added (R200). -/
def scalarResult (sd : SReg) (r : Except Cause Result) (s : State) : Except Raised State :=
  match r with
  | .error c => .error (.unlaned c)
  | .ok r => .ok ((s.writeSreg sd r.value).countResult r)

/-! ### Vector commands -/

/-- The lane loop of R241: `lane_op` over `act` in ascending order; the first failing lane raises its fault. -/
def runLanes (laneOp : Nat → Except Cause Result) : List Nat → Except Raised (List (Nat × Result))
  | [] => .ok []
  | n :: ns =>
    match laneOp n with
    | .error c => .error (.atLane c n)
    | .ok r =>
      match runLanes laneOp ns with
      | .error e => .error e
      | .ok rs => .ok ((n, r) :: rs)

/-- One lane's result: written to lane n of `V[vd]`, its counters added, and `DONE[n]` set when it saturated (R241, R250). -/
def State.commitLane (vd : VReg) (s : State) (nr : Nat × Result) : State :=
  let s' := (s.writeLane vd nr.1 nr.2.value).countResult nr.2
  if nr.2.saturated then s'.markDone nr.1 else s'

/-- The common vector procedure (R241): every lane is read from the state at the command's start, then all are written. -/
def vectorResult (vd : VReg) (laneOp : Nat → Except Cause Result) (s : State) : Except Raised State :=
  match runLanes laneOp s.activeLanes with
  | .error r => .error r
  | .ok rs => .ok (rs.foldl (State.commitLane vd) s)

/-- The validation loop of `VCMPT` and `UPDDONE` (R252, R283): the lowest invalid active lane raises `OPERAND_INVALID`. -/
def validateLanes (f : Format) (rep : Rep) (lane : Nat → Number) : List Nat → Except Raised Unit
  | [] => .ok ()
  | n :: ns => if validRep f rep (lane n) then validateLanes f rep lane ns else .error (.atLane .operandInvalid n)

end Sys2Proof.Machine
end

