-- ==== Sys2Proof/Machine/Flags.lean ====
section
/-! DEFINITION. The flags and query results (10_state.md R45, R54): the threshold predicate of `GE` and `ESC`, the magnitude
compare of `CMP`, the limb queries of `RES`, the derived fields of `STATUS`, and the interrupt level. -/

namespace Sys2Proof.Machine

/-- `ge_thr_REP(a)` against `THRESH_MSL` (R157): the top digit, with the sign bit masked off in 2C. -/
def geThreshold (f : Format) (msl : Nat) : Rep → Number → Bool
  | .sm, a => decide (msl ≤ digit f a (f.l - 1))
  | .tc, a => decide (msl ≤ digit f a (f.l - 1) % 2 ^ (f.b - 1))

/-- The threshold predicate with the threshold in force (R157, R62). -/
def State.geThr (s : State) (rep : Rep) (a : Number) : Bool := geThreshold s.format s.threshMsl.toNat rep a

/-- `STATUS.CMP` of two magnitudes (R210). -/
def cmpCode (ma mb : Nat) : BitVec 2 := if ma = mb then 0 else if mb < ma then 1 else 2

/-- `LIMBLEN` over cells k < n (R175): one more than the highest nonzero cell's index, or 0. -/
def limbLen (a : Number) : Nat → Nat
  | 0 => 0
  | n + 1 => if a.cell n ≠ 0 then n + 1 else limbLen a n

/-- `TZLIMB` over cells k < n (R176): the lowest nonzero cell's index, or n. -/
def tzLimb (a : Number) (n : Nat) : Nat := ((List.range n).find? fun k => a.cell k != 0).getD n

/-- `STATUS.IPEMPTY` (R54): every `INPLAY[g]` is 0. -/
def State.ipempty (s : State) : Bool := s.inplay.all (!·)

/-- `STATUS.DSUM` (R54): 0 when no lane n < `VCOUNT` is done (and when `VCOUNT` = 0), 2 when every one is, else 1. -/
def State.dsum (s : State) : Nat :=
  if (List.range s.vcount.toNat).all fun n => !s.doneAt n then 0
  else if (List.range s.vcount.toNat).all s.doneAt then 2
  else 1

/-- The interrupt output `irq` (R320), which `STATUS.IRQ` reads. -/
def State.irq (s : State) : Bool := (s.faultV && s.fie) || (s.ipempty && s.die && s.configured)

end Sys2Proof.Machine
end

