-- ==== Sys2Proof/Machine/Scalar.lean ====
section
/-! DEFINITION. The scalar arithmetic commands of 41_scalar_engine.md. Every rule reads its sources from the state at the
command's start, so any destination may be a source (R200). -/

namespace Sys2Proof.Machine

/-- MOV (R211): cells k < L and the sign, not validated. -/
def execMov (sd sa : SReg) (s : State) : Host.Outcome State Fault Refusal :=
  runCommand true (encode (.mov sd sa)) (fun s => .ok (s.writeSreg sd (s.sregAt sa))) s

/-- LDZ (R206). -/
def execLdz (sd : SReg) (s : State) : Host.Outcome State Fault Refusal :=
  runCommand true (encode (.ldz sd)) (fun s => .ok (s.writeSreg sd (encSM s.format 0))) s

/-- LDMAX (R207). -/
def execLdmax (rep : Rep) (sd : SReg) (s : State) : Host.Outcome State Fault Refusal :=
  runCommand true (encode (.ldmax rep sd)) (fun s => .ok (s.writeSreg sd (clampRep s.format rep 1))) s

/-- A scaled integer loaded into `S[RD]`, or the fault `c` when it is out of range (R172, R208). -/
def loadScaled (rep : Rep) (sd : SReg) (x : Int) (c : Cause) (s : State) : Except Raised State :=
  if inrangeRep s.format rep x then .ok (s.writeSreg sd (encRep s.format rep x)) else .error (.unlaned c)

/-- LDI (R208): the integer k as the value k. -/
def execLdi (rep : Rep) (sd : SReg) (k : Int) (s : State) : Host.Outcome State Fault Refusal :=
  runCommand true (encode (.ldi rep sd k)) (fun s => loadScaled rep sd (k * 2 ^ s.format.f) .convRange s) s

/-- ADD (R204). -/
def execAdd (rep : Rep) (sd sa sb : SReg) (s : State) : Host.Outcome State Fault Refusal :=
  runCommand true (encode (.add rep sd sa sb))
    (fun s => scalarResult sd (opAdd s.format rep (s.sregAt sa) (s.sregAt sb)) s) s

/-- SUB (R205). -/
def execSub (rep : Rep) (sd sa sb : SReg) (s : State) : Host.Outcome State Fault Refusal :=
  runCommand true (encode (.sub rep sd sa sb))
    (fun s => scalarResult sd (opSub s.format rep (s.sregAt sa) (s.sregAt sb)) s) s

/-- MUL (R201). -/
def execMul (rep : Rep) (sd sa sb : SReg) (s : State) : Host.Outcome State Fault Refusal :=
  runCommand true (encode (.mul rep sd sa sb))
    (fun s => scalarResult sd (opMul s.format rep (s.sregAt sa) (s.sregAt sb)) s) s

/-- SQR (R202). -/
def execSqr (rep : Rep) (sd sa : SReg) (s : State) : Host.Outcome State Fault Refusal :=
  runCommand true (encode (.sqr rep sd sa)) (fun s => scalarResult sd (opSqr s.format rep (s.sregAt sa)) s) s

/-- MULI (R203). -/
def execMuli (rep : Rep) (sd sa : SReg) (k : Int) (s : State) : Host.Outcome State Fault Refusal :=
  runCommand true (encode (.muli rep sd sa k)) (fun s => scalarResult sd (opMuli s.format rep (s.sregAt sa) k) s) s

/-- The rule of `CMPT` (R209): the operand is validated, then compared by its top digit. -/
def ruleCmpt (rep : Rep) (sa : SReg) (s : State) : Except Raised State :=
  if validRep s.format rep (s.sregAt sa) then .ok (s.setGe (s.geThr rep (s.sregAt sa)))
  else .error (.unlaned .operandInvalid)

/-- CMPT (R209). -/
def execCmpt (rep : Rep) (sa : SReg) (s : State) : Host.Outcome State Fault Refusal :=
  runCommand true (encode (.cmpt rep sa)) (ruleCmpt rep sa) s

/-- The rule of `CMPM` (R210): magnitudes of two SM operands; the signs are not read. -/
def ruleCmpm (sa sb : SReg) (s : State) : Except Raised State :=
  if validSM s.format (s.sregAt sa) && validSM s.format (s.sregAt sb) then
    .ok (s.setCmp (cmpCode (mag s.format (s.sregAt sa)) (mag s.format (s.sregAt sb))))
  else .error (.unlaned .operandInvalid)

/-- CMPM (R210). -/
def execCmpm (sa sb : SReg) (s : State) : Host.Outcome State Fault Refusal :=
  runCommand true (encode (.cmpm sa sb)) (ruleCmpm sa sb) s

end Sys2Proof.Machine
end

