-- ==== Sys2Proof/Machine/Codec.lean ====
section
/-! DEFINITION. The codec commands of 40_format_codec.md §5: `TOTC`, `FROMTC`, `SPLIT`, `JOIN`, `CHK`, `LIMBLEN`, `TZLIMB`. -/

namespace Sys2Proof.Machine

/-- The rule of `TOTC` (R170). -/
def ruleTotc (sd sa : SReg) (s : State) : Except Raised State :=
  if validSM s.format (s.sregAt sa) then loadScaled .tc sd (xSM s.format (s.sregAt sa)) .convOverflow s
  else .error (.unlaned .operandInvalid)

/-- TOTC (R170). -/
def execTotc (sd sa : SReg) (s : State) : Host.Outcome State Fault Refusal :=
  runCommand true (encode (.totc sd sa)) (ruleTotc sd sa) s

/-- The rule of `FROMTC` (R171). -/
def ruleFromtc (sd sa : SReg) (s : State) : Except Raised State :=
  if valid2C s.format (s.sregAt sa) then .ok (s.writeSreg sd (encSM s.format (x2C s.format (s.sregAt sa))))
  else .error (.unlaned .operandInvalid)

/-- FROMTC (R171). -/
def execFromtc (sd sa : SReg) (s : State) : Host.Outcome State Fault Refusal :=
  runCommand true (encode (.fromtc sd sa)) (ruleFromtc sd sa) s

/-! ### The staging buffer -/

/-- The unsigned integer R of `RAW` (R42). -/
def State.rawValue (s : State) : Nat := sumBelow 64 fun w => (s.raw.toList.getD w 0).toNat * 2 ^ (64 * w)

/-- `M` of `SPLIT` (R172) for the magnitude R and the shift s: R × 2^s, or R div 2^(−s). A left shift is capped at T: from
there on every R ≠ 0 is out of range and R = 0 is 0 either way, so no outcome changes (`Laws.splitMagnitude_inrange`;
notes/assumptions/8.md). -/
def splitMagnitude (t r : Nat) (shift : Int) : Nat :=
  if 0 ≤ shift then r * 2 ^ min shift.toNat t else r >>> (-shift).toNat

/-- The scaled integer of `SPLIT` (R172). -/
def State.splitValue (s : State) : Int :=
  let m := splitMagnitude s.format.t s.rawValue (s.rawExp.toInt + s.format.f)
  if s.rawSign then (m : Int) else -(m : Int)

/-- SPLIT (R172). -/
def execSplit (rep : Rep) (sd : SReg) (s : State) : Host.Outcome State Fault Refusal :=
  runCommand true (encode (.split rep sd)) (fun s => loadScaled rep sd s.splitValue .convRange s) s

/-- The 64 words of an unsigned integer, word 0 least significant (R42, R173). -/
def rawOf (u : Nat) : Vector Cell 64 :=
  ⟨((List.range 64).map fun w => BitVec.ofNat 64 (u / 2 ^ (64 * w))).toArray, by simp⟩

/-- The scaled integer x written to `RAW`, `RAW_EXP` and `RAW_SIGN` (R173). -/
def State.writeRaw (s : State) (x : Int) : State :=
  { s with
    raw := rawOf x.natAbs
    rawExp := BitVec.ofInt 32 (-(s.format.f : Int))
    rawSign := decide (0 ≤ x) }

/-- The rule of `JOIN` (R173). -/
def ruleJoin (rep : Rep) (sa : SReg) (s : State) : Except Raised State :=
  if validRep s.format rep (s.sregAt sa) then .ok (s.writeRaw (xRep s.format rep (s.sregAt sa)))
  else .error (.unlaned .operandInvalid)

/-- JOIN (R173). -/
def execJoin (rep : Rep) (sa : SReg) (s : State) : Host.Outcome State Fault Refusal :=
  runCommand true (encode (.join rep sa)) (ruleJoin rep sa) s

/-! ### Queries -/

/-- CHK (R174): the validator as a query. -/
def execChk (rep : Rep) (sa : SReg) (s : State) : Host.Outcome State Fault Refusal :=
  runCommand true (encode (.chk rep sa)) (fun s => .ok (s.setValid (validRep s.format rep (s.sregAt sa)))) s

/-- LIMBLEN (R175). -/
def execLimblen (sa : SReg) (s : State) : Host.Outcome State Fault Refusal :=
  runCommand true (encode (.limblen sa)) (fun s => .ok (s.setRes (limbLen (s.sregAt sa) s.format.l))) s

/-- TZLIMB (R176). -/
def execTzlimb (sa : SReg) (s : State) : Host.Outcome State Fault Refusal :=
  runCommand true (encode (.tzlimb sa)) (fun s => .ok (s.setRes (tzLimb (s.sregAt sa) s.format.l))) s

end Sys2Proof.Machine
end

