-- ==== Sys2Proof/Machine/Control.lean ====
section
/-! DEFINITION. The control commands: `NOP` (R163), `CONSTRUCT` (R160), `ORST` (R282) and `UPDDONE` (R283). -/

namespace Sys2Proof.Machine

/-- NOP (R163). -/
def execNop (s : State) : Host.Outcome State Fault Refusal := runCommand false (encode .nop) (fun s => .ok s) s

/-! ### CONSTRUCT -/

/-- `T = ceil((I + Freq) / B) × B` (R159). -/
def adjustedBits (b i fq : Nat) : Nat := (i + fq + b - 1) / b * b

/-- `THRESH_MSL = (t × 2^F) div 2^(B·(L−1))` (R161). -/
def thresholdMsl (b l f t : Nat) : Nat := t * 2 ^ f / 2 ^ (b * (l - 1))

/-- The effect of a successful `CONSTRUCT` with the format I, F, L, T, the threshold t and the value count N (R160). -/
def State.configure (s : State) (i f l t thresh n : Nat) : State :=
  { s.orchestratorReset n with
    fmtI := BitVec.ofNat 8 i
    fmtF := BitVec.ofNat 16 f
    fmtL := BitVec.ofNat 8 l
    fmtT := BitVec.ofNat 16 t
    threshMsl := BitVec.ofNat 64 (thresholdMsl s.params.limbBits l f thresh)
    vcount := BitVec.ofNat 16 n
    sregs := Vector.replicate 16 (Number.cleared s.params)
    vregs := Vector.replicate 8 (List.replicate s.params.vcap (Number.cleared s.params))
    acarry := 0
    mcarry := 0
    ge := false
    cmp := 0
    valid := false
    res := 0
    configured := true }

/-- The rule of `CONSTRUCT` (R160), its checks in their order. -/
def ruleConstruct (s : State) : Except Raised State :=
  let b := s.params.limbBits
  let i := s.cfgBbp.toNat
  let t := adjustedBits b i s.cfgFrac.toNat
  let l := t / b
  let n := s.cfgVcount.toNat
  if i = 0 ∨ i > 32 then .error (.unlaned .formatViolation)
  else if l > s.params.lMax then .error (.unlaned .formatViolation)
  else if s.cfgThresh.toNat > 2 ^ i - 1 then .error (.unlaned .thresholdRange)
  else if n = 0 ∨ n % 4 ≠ 0 ∨ n > s.params.vcap then .error (.unlaned .valuecountAlign)
  else .ok (s.configure i (t - i) l t s.cfgThresh.toNat n)

/-- CONSTRUCT (R160): it runs whether or not the block is configured. -/
def execConstruct (s : State) : Host.Outcome State Fault Refusal := runCommand false (encode .construct) ruleConstruct s

/-! ### ORST and UPDDONE -/

/-- ORST (R282). -/
def execOrst (s : State) : Host.Outcome State Fault Refusal :=
  runCommand true (encode .orst) (fun s => .ok (s.orchestratorReset s.vcount.toNat)) s

/-- Every lane of group g is done (R283). -/
def State.groupDone (s : State) (g : Nat) : Bool :=
  s.doneAt (4 * g) && s.doneAt (4 * g + 1) && s.doneAt (4 * g + 2) && s.doneAt (4 * g + 3)

/-- "dropping fully-retired groups": the last loop of R283. -/
def State.dropRetiredGroups (s : State) : State :=
  { s with inplay := s.inplay.mapIdx fun g p => p && !s.groupDone g }

/-- One active lane's update (R283): its escape flag, its count, then its done flag from both. -/
def State.updateLane (rep : Rep) (va : VReg) (s : State) (n : Nat) : State :=
  let e := s.geThr rep (s.laneAt va n)
  let c := s.countAt n + 1
  { s with
    esc := s.esc.set n e
    count := s.count.set n c
    done := if e || decide (s.target.toNat ≤ c.toNat) then s.done.set n true else s.done }

/-- The rule of `UPDDONE` (R283). -/
def ruleUpddone (rep : Rep) (va : VReg) (s : State) : Except Raised State :=
  match validateLanes s.format rep (s.laneAt va) s.activeLanes with
  | .error r => .error r
  | .ok () => .ok (s.activeLanes.foldl (State.updateLane rep va) s).dropRetiredGroups

/-- UPDDONE (R283). -/
def execUpddone (rep : Rep) (va : VReg) (s : State) : Host.Outcome State Fault Refusal :=
  runCommand true (encode (.upddone rep va)) (ruleUpddone rep va) s

end Sys2Proof.Machine
end

