-- ==== Sys2Proof/Machine/Lanes.lean ====
section
/-! DEFINITION. The lane container commands of 42_vector_engine.md, over the common vector procedure of R241. Lane results
depend on that lane's operands only (R241, D46). -/

namespace Sys2Proof.Machine

/-- VMOV (R242): active lanes, cells k < L and the sign, not validated. -/
def execVmov (vd va : VReg) (s : State) : Host.Outcome State Fault Refusal :=
  runCommand true (encode (.vmov vd va)) (fun s => vectorResult vd (fun n => .ok (.plain (s.laneAt va n))) s) s

/-- VLDZ (R243). -/
def execVldz (vd : VReg) (s : State) : Host.Outcome State Fault Refusal :=
  runCommand true (encode (.vldz vd)) (fun s => vectorResult vd (fun _ => .ok (.plain (encSM s.format 0))) s) s

/-- VBCAST (R244). -/
def execVbcast (vd : VReg) (sa : SReg) (s : State) : Host.Outcome State Fault Refusal :=
  runCommand true (encode (.vbcast vd sa)) (fun s => vectorResult vd (fun _ => .ok (.plain (s.sregAt sa))) s) s

/-- The rule of `VEXT` (R245): not masked, not validated. -/
def ruleVext (sd : SReg) (va : VReg) (lane : Nat) (s : State) : Except Raised State :=
  if s.vcount.toNat ≤ lane then .error (.atLane .laneRange lane) else .ok (s.writeSreg sd (s.laneAt va lane))

/-- VEXT (R245). -/
def execVext (sd : SReg) (va : VReg) (lane : Nat) (s : State) : Host.Outcome State Fault Refusal :=
  runCommand true (encode (.vext sd va lane)) (ruleVext sd va lane) s

/-- The rule of `VINS` (R246): not masked, not validated. -/
def ruleVins (vd : VReg) (sa : SReg) (lane : Nat) (s : State) : Except Raised State :=
  if s.vcount.toNat ≤ lane then .error (.atLane .laneRange lane) else .ok (s.writeLane vd lane (s.sregAt sa))

/-- VINS (R246). -/
def execVins (vd : VReg) (sa : SReg) (lane : Nat) (s : State) : Host.Outcome State Fault Refusal :=
  runCommand true (encode (.vins vd sa lane)) (ruleVins vd sa lane) s

/-- VADD (R250): a saturating lane is also marked done (`State.commitLane`). -/
def execVadd (rep : Rep) (vd va vb : VReg) (s : State) : Host.Outcome State Fault Refusal :=
  runCommand true (encode (.vadd rep vd va vb))
    (fun s => vectorResult vd (fun n => opAdd s.format rep (s.laneAt va n) (s.laneAt vb n)) s) s

/-- VSUB (R251). -/
def execVsub (rep : Rep) (vd va vb : VReg) (s : State) : Host.Outcome State Fault Refusal :=
  runCommand true (encode (.vsub rep vd va vb))
    (fun s => vectorResult vd (fun n => opSub s.format rep (s.laneAt va n) (s.laneAt vb n)) s) s

/-- VMUL (R247). -/
def execVmul (rep : Rep) (vd va vb : VReg) (s : State) : Host.Outcome State Fault Refusal :=
  runCommand true (encode (.vmul rep vd va vb))
    (fun s => vectorResult vd (fun n => opMul s.format rep (s.laneAt va n) (s.laneAt vb n)) s) s

/-- VSQR (R248). -/
def execVsqr (rep : Rep) (vd va : VReg) (s : State) : Host.Outcome State Fault Refusal :=
  runCommand true (encode (.vsqr rep vd va)) (fun s => vectorResult vd (fun n => opSqr s.format rep (s.laneAt va n)) s) s

/-- VMULI (R249). -/
def execVmuli (rep : Rep) (vd va : VReg) (k : Int) (s : State) : Host.Outcome State Fault Refusal :=
  runCommand true (encode (.vmuli rep vd va k))
    (fun s => vectorResult vd (fun n => opMuli s.format rep (s.laneAt va n) k) s) s

/-- The rule of `VCMPT` (R252): `ESC` of the active lanes, once all of them are valid. -/
def ruleVcmpt (rep : Rep) (va : VReg) (s : State) : Except Raised State :=
  match validateLanes s.format rep (s.laneAt va) s.activeLanes with
  | .error r => .error r
  | .ok () => .ok { s with esc := s.esc.mapIdx fun n e => if s.isActive n then s.geThr rep (s.laneAt va n) else e }

/-- VCMPT (R252). -/
def execVcmpt (rep : Rep) (va : VReg) (s : State) : Host.Outcome State Fault Refusal :=
  runCommand true (encode (.vcmpt rep va)) (ruleVcmpt rep va) s

end Sys2Proof.Machine
end

