-- ==== Sys2Proof/Machine/Dispatch.lean ====
section
/-! DEFINITION. The dispatch: one arm per command, each one direct call of its meaning. -/

namespace Sys2Proof.Machine

/-- What writing the command `i` to `COMMAND` does (R310). -/
def exec (i : Instr) (s : State) : Host.Outcome State Fault Refusal :=
  match i with
  | .nop => Sys2Proof.Machine.execNop s
  | .construct => Sys2Proof.Machine.execConstruct s
  | .orst => Sys2Proof.Machine.execOrst s
  | .upddone rep va => Sys2Proof.Machine.execUpddone rep va s
  | .mov sd sa => Sys2Proof.Machine.execMov sd sa s
  | .ldz sd => Sys2Proof.Machine.execLdz sd s
  | .ldmax rep sd => Sys2Proof.Machine.execLdmax rep sd s
  | .ldi rep sd k => Sys2Proof.Machine.execLdi rep sd k s
  | .add rep sd sa sb => Sys2Proof.Machine.execAdd rep sd sa sb s
  | .sub rep sd sa sb => Sys2Proof.Machine.execSub rep sd sa sb s
  | .mul rep sd sa sb => Sys2Proof.Machine.execMul rep sd sa sb s
  | .sqr rep sd sa => Sys2Proof.Machine.execSqr rep sd sa s
  | .muli rep sd sa k => Sys2Proof.Machine.execMuli rep sd sa k s
  | .cmpt rep sa => Sys2Proof.Machine.execCmpt rep sa s
  | .cmpm sa sb => Sys2Proof.Machine.execCmpm sa sb s
  | .totc sd sa => Sys2Proof.Machine.execTotc sd sa s
  | .fromtc sd sa => Sys2Proof.Machine.execFromtc sd sa s
  | .split rep sd => Sys2Proof.Machine.execSplit rep sd s
  | .join rep sa => Sys2Proof.Machine.execJoin rep sa s
  | .limblen sa => Sys2Proof.Machine.execLimblen sa s
  | .tzlimb sa => Sys2Proof.Machine.execTzlimb sa s
  | .chk rep sa => Sys2Proof.Machine.execChk rep sa s
  | .vmov vd va => Sys2Proof.Machine.execVmov vd va s
  | .vldz vd => Sys2Proof.Machine.execVldz vd s
  | .vbcast vd sa => Sys2Proof.Machine.execVbcast vd sa s
  | .vext sd va lane => Sys2Proof.Machine.execVext sd va lane s
  | .vins vd sa lane => Sys2Proof.Machine.execVins vd sa lane s
  | .vadd rep vd va vb => Sys2Proof.Machine.execVadd rep vd va vb s
  | .vsub rep vd va vb => Sys2Proof.Machine.execVsub rep vd va vb s
  | .vmul rep vd va vb => Sys2Proof.Machine.execVmul rep vd va vb s
  | .vsqr rep vd va => Sys2Proof.Machine.execVsqr rep vd va s
  | .vmuli rep vd va k => Sys2Proof.Machine.execVmuli rep vd va k s
  | .vcmpt rep va => Sys2Proof.Machine.execVcmpt rep va s

end Sys2Proof.Machine
end

