-- ==== Sys2Proof/Machine/Window.lean ====
section
/-! DEFINITION. The host window (20_memory.md): which slot an offset names (R80, R84 to R88), and what a slot reads as and
how a write changes it (R84 to R88, 10_state.md R50 to R68). The window is a view of the state; there is no other memory
(R12). -/

namespace Sys2Proof.Machine

/-- The control and status registers of R50. -/
inductive Csr where
  | cap
  | ctrl
  | status
  | fault
  | faultCmd
  | faultLane
  | faultSeq
  | command
  | cmdcnt
  | res
  | cfgBbp
  | cfgFrac
  | cfgThresh
  | cfgVcount
  | target
  | fmt
  | threshMsl
  | vcount
  | acarry
  | mcarry
  | rawExp
  | rawSign
  deriving DecidableEq, Repr

/-- What a slot of the window holds (R80). -/
inductive Slot where
  | csr (c : Csr)
  | raw (w : Fin 64)
  | scalarCell (r : SReg) (k : Nat)
  | scalarSign (r : SReg)
  | count (n : Nat)
  | doneWord (w : Nat)
  | escWord (w : Nat)
  | inplayWord (w : Nat)
  | laneCell (v : VReg) (k n : Nat)
  | laneSign (v : VReg) (n : Nat)
  | reserved
  deriving DecidableEq, Repr

/-- The offsets of R50, as slot numbers (offset / 8). -/
def csrOf : Nat → Slot
  | 0x00 => .csr .cap
  | 0x01 => .csr .ctrl
  | 0x02 => .csr .status
  | 0x03 => .csr .fault
  | 0x04 => .csr .faultCmd
  | 0x05 => .csr .faultLane
  | 0x06 => .csr .faultSeq
  | 0x07 => .csr .command
  | 0x08 => .csr .cmdcnt
  | 0x09 => .csr .res
  | 0x0A => .csr .cfgBbp
  | 0x0B => .csr .cfgFrac
  | 0x0C => .csr .cfgThresh
  | 0x0D => .csr .cfgVcount
  | 0x0E => .csr .target
  | 0x0F => .csr .fmt
  | 0x10 => .csr .threshMsl
  | 0x11 => .csr .vcount
  | 0x12 => .csr .acarry
  | 0x13 => .csr .mcarry
  | 0x14 => .csr .rawExp
  | 0x15 => .csr .rawSign
  | _ => .reserved

/-- The slot of scalar register r at row k (R84). -/
def scalarSlot (p : Params) (r k : Nat) : Slot :=
  if k < p.lMax then .scalarCell (Fin.ofNat 16 r) k else if k = 63 then .scalarSign (Fin.ofNat 16 r) else .reserved

/-- The slot of lane n of container v at row k (R86). -/
def laneSlot (p : Params) (v k n : Nat) : Slot :=
  if n < p.vcap then
    if k < p.lMax then .laneCell (Fin.ofNat 8 v) k n else if k = 63 then .laneSign (Fin.ofNat 8 v) n else .reserved
  else .reserved

/-- The slot at a window offset (R80), for an offset that is a multiple of 8. -/
def slotOf (p : Params) (o : Nat) : Slot :=
  if o < 0x001000 then csrOf (o / 8)
  else if o < 0x001200 then .raw (Fin.ofNat 64 ((o - 0x001000) / 8))
  else if o < 0x002000 then .reserved
  else if o < 0x004000 then scalarSlot p ((o - 0x002000) / 0x200) ((o - 0x002000) % 0x200 / 8)
  else if o < 0x006000 then if (o - 0x004000) / 8 < p.vcap then .count ((o - 0x004000) / 8) else .reserved
  else if o < 0x006080 then .doneWord ((o - 0x006000) / 8)
  else if o < 0x006100 then .reserved
  else if o < 0x006180 then .escWord ((o - 0x006100) / 8)
  else if o < 0x006200 then .reserved
  else if o < 0x006220 then .inplayWord ((o - 0x006200) / 8)
  else if o < 0x100000 then .reserved
  else if o < 0x500000 then
    laneSlot p ((o - 0x100000) / 0x80000) ((o - 0x100000) % 0x80000 / 0x2000) ((o - 0x100000) % 0x2000 / 8)
  else .reserved

/-! ### Reading a slot -/

/-- The sign of R33 as the host sees it: all ones for positive, all zeros for negative. -/
def signMask (b : Bool) : Cell := if b then 0xFFFFFFFFFFFFFFFF else 0

/-- 64 flags as a word: bit j is flag 64w + j, 0 past the list's end (R85). -/
def flagWord (fs : List Bool) (w : Nat) : Cell := BitVec.ofNat 64 (sumBelow 64 fun j => (fs.getD (64 * w + j) false).toNat * 2 ^ j)

/-- `CAP` (R52). -/
def capWord (p : Params) : Cell :=
  BitVec.ofNat 64 (p.limbBits + p.lMax * 2 ^ 8 + p.vcap * 2 ^ 16 + numSRegs * 2 ^ 32 + numVRegs * 2 ^ 40 +
    groupLanes * 2 ^ 48 + 1 * 2 ^ 56)

/-- `STATUS` (R54). -/
def State.statusWord (s : State) : Cell :=
  BitVec.ofNat 64 (s.configured.toNat + s.faultV.toNat * 2 ^ 1 + s.ge.toNat * 2 ^ 2 + s.cmp.toNat * 2 ^ 3 +
    s.valid.toNat * 2 ^ 5 + s.ipempty.toNat * 2 ^ 6 + s.dsum * 2 ^ 7 + s.dropped.toNat * 2 ^ 9 +
    s.buserr.toNat * 2 ^ 10 + s.irq.toNat * 2 ^ 11)

/-- A control register's value (R50 to R68); a write-only register reads as 0 (R51). -/
def State.readCsr (s : State) : Csr → Cell
  | .cap => capWord s.params
  | .ctrl => BitVec.ofNat 64 (s.fie.toNat + s.die.toNat * 2)
  | .status => s.statusWord
  | .fault => BitVec.ofNat 64 (s.faultCause.toNat + s.faultV.toNat * 2 ^ 8)
  | .faultCmd => s.faultCmd.setWidth 64
  | .faultLane => s.faultLane.setWidth 64
  | .faultSeq => s.faultSeq.setWidth 64
  | .command => 0
  | .cmdcnt => s.cmdcnt.setWidth 64
  | .res => s.res.setWidth 64
  | .cfgBbp => s.cfgBbp.setWidth 64
  | .cfgFrac => s.cfgFrac.setWidth 64
  | .cfgThresh => s.cfgThresh.setWidth 64
  | .cfgVcount => s.cfgVcount.setWidth 64
  | .target => s.target.setWidth 64
  | .fmt => BitVec.ofNat 64 (s.fmtI.toNat + s.fmtF.toNat * 2 ^ 8 + s.fmtL.toNat * 2 ^ 24 + s.fmtT.toNat * 2 ^ 32)
  | .threshMsl => s.threshMsl
  | .vcount => s.vcount.setWidth 64
  | .acarry => s.acarry.setWidth 64
  | .mcarry => s.mcarry.setWidth 64
  | .rawExp => s.rawExp.signExtend 64
  | .rawSign => BitVec.ofNat 64 s.rawSign.toNat

/-- A slot's value (R84 to R88). -/
def State.readSlot (s : State) : Slot → Cell
  | .csr c => s.readCsr c
  | .raw w => s.raw[w]
  | .scalarCell r k => (s.sregAt r).cell k
  | .scalarSign r => signMask (s.sregAt r).sign
  | .count n => (s.countAt n).setWidth 64
  | .doneWord w => flagWord s.done w
  | .escWord w => flagWord s.esc w
  | .inplayWord w => flagWord s.inplay w
  | .laneCell v k n => (s.laneAt v n).cell k
  | .laneSign v n => signMask (s.laneAt v n).sign
  | .reserved => 0

/-! ### Writing a slot -/

/-- A host write to a control register other than `COMMAND` (R50 to R68); a read-only register ignores it (R51). -/
def State.writeCsr (s : State) (c : Csr) (v : Cell) : State :=
  match c with
  | .ctrl => { s with fie := v.getLsbD 0, die := v.getLsbD 1 }
  | .status => { s with dropped := s.dropped && !v.getLsbD 9, buserr := s.buserr && !v.getLsbD 10 }
  | .fault => if v.getLsbD 8 then s.clearFault else s
  | .cmdcnt => { s with cmdcnt := v.setWidth 32 }
  | .cfgBbp => { s with cfgBbp := v.setWidth 8 }
  | .cfgFrac => { s with cfgFrac := v.setWidth 16 }
  | .cfgThresh => { s with cfgThresh := v.setWidth 32 }
  | .cfgVcount => { s with cfgVcount := v.setWidth 16 }
  | .target => { s with target := v.setWidth 16 }
  | .acarry => { s with acarry := v.setWidth 32 }
  | .mcarry => { s with mcarry := v.setWidth 32 }
  | .rawExp => { s with rawExp := v.setWidth 32 }
  | .rawSign => { s with rawSign := v.getLsbD 0 }
  | .cap | .faultCmd | .faultLane | .faultSeq | .command | .res | .fmt | .threshMsl | .vcount => s

/-- The host stores a cell as it stands (R84, R86). -/
def Number.setCell (a : Number) (k : Nat) (v : Cell) : Number := { a with cells := a.cells.set k v }

/-- The host writes a sign slot: bit 0 of the value (R33, R84). -/
def Number.setSign (a : Number) (v : Cell) : Number := { a with sign := v.getLsbD 0 }

/-- A host write to a slot (R84 to R88) other than `COMMAND`'s; read-only and reserved slots ignore it. -/
def State.writeSlot (s : State) (sl : Slot) (v : Cell) : State :=
  match sl with
  | .csr c => s.writeCsr c v
  | .raw w => { s with raw := s.raw.set w v }
  | .scalarCell r k => { s with sregs := s.sregs.set r ((s.sregAt r).setCell k v) }
  | .scalarSign r => { s with sregs := s.sregs.set r ((s.sregAt r).setSign v) }
  | .count n => { s with count := s.count.set n (v.setWidth 16) }
  | .laneCell c k n => { s with vregs := s.vregs.set c ((s.vregAt c).modify n (·.setCell k v)) }
  | .laneSign c n => { s with vregs := s.vregs.set c ((s.vregAt c).modify n (·.setSign v)) }
  | .doneWord _ | .escWord _ | .inplayWord _ | .reserved => s

end Sys2Proof.Machine
end

