-- ==== Sys2Proof/Machine/Port.lean ====
section
/-! DEFINITION. The host port: one move of the host, served completely before the next (20_memory.md R81, R82, R90, R92), the
command port among them (10_state.md R64, 60_exceptions.md R310). -/

namespace Sys2Proof.Machine

/-- The offset of `COMMAND` (R50). -/
def commandOffset : BitVec 23 := 0x038

/-- A write to `COMMAND` (R64, R310). -/
def runWord (w : Word) (s : State) : Host.Outcome State Fault Refusal :=
  match decode w with
  | .error _ => runIllegal w s
  | .ok i => exec i s

/-- The access obeys R81: 8 bytes wide, at a multiple of 8. -/
def accessOk (offset : BitVec 23) (width : Nat) : Bool := width == 8 && offset.toNat % 8 == 0

/-- `STATUS.BUSERR <- 1` (R81). -/
def State.busError (s : State) : State := { s with buserr := true }

/-- A host read of `width` bytes (R81, R82, R90): the 8 bytes of the slot; a read that breaks R81 returns 0. -/
def hostRead (offset : BitVec 23) (width : Nat) (s : State) : State :=
  if accessOk offset width then
    { s with hostData := leBytes 8 (s.readSlot (slotOf s.params offset.toNat)).toNat }
  else { s.busError with hostData := List.replicate width 0 }

/-- A host write (R81, R82, R90): at `COMMAND` it executes the command. -/
def hostWrite (offset : BitVec 23) (data : List Byte) (s : State) : Host.Outcome State Fault Refusal :=
  if accessOk offset data.length then
    if offset = commandOffset then runWord (commandWord (BitVec.ofNat 64 (leValue data))) s
    else .next (s.writeSlot (slotOf s.params offset.toNat) (BitVec.ofNat 64 (leValue data)))
  else .next s.busError

/-- The reset input (R340): the state after reset, with this block's parameters; the host's later moves are still to come. -/
def platformReset (s : State) : State := { State.resetWith s.params with host := s.host }

/-- One move of the host, in the state whose `host` lists the moves after it. -/
def serve (e : HostEvent) (s : State) : Host.Outcome State Fault Refusal :=
  match e with
  | .read offset width => .next (hostRead offset width s)
  | .write offset data => hostWrite offset data s
  | .reset => .next (platformReset s)

/-- The host writes the 64-bit value v to `COMMAND`. -/
def commandWrite (v : Nat) : HostEvent := .write commandOffset (leBytes 8 v)

end Sys2Proof.Machine
end

