-- ==== Sys2Proof/Machine/Step.lean ====
section
/-! DEFINITION. One step: the host's next move, served completely (R92, R358: each command is one step). -/

namespace Sys2Proof.Machine

/-- The host's next move; with none the block waits (93_implementation_defined.md H2). -/
def step (s : State) : Host.Outcome State Fault Refusal :=
  match s.host with
  | [] => .fault .hostIdle
  | e :: rest => serve e { s with host := rest }

/-- `s` with the host about to write the command word w to `COMMAND`. The block fetches no instruction: the host writes each
command (R4, R95; notes/assumptions/4.md). -/
def State.withFetchWord (s : State) (nbits w : Nat) : State :=
  { s with host := commandWrite (w % 2 ^ nbits) :: s.host }

end Sys2Proof.Machine
end

