-- ==== Sys2Proof/Machine/Asm.lean ====
section
/-! DEFINITION. The assembler of 30_encoding.md §3: an assembly line, already split into mnemonic, suffix and operands, and the
command or commands it stands for (R125, R126). An assembly error is `none`. -/

namespace Sys2Proof.Machine

/-- One operand as written: `s<n>`, `v<n>` or an immediate (R125). -/
inductive AsmOperand where
  | s (n : Nat)
  | v (n : Nat)
  | imm (k : Int)
  deriving DecidableEq, Repr

/-- One line: `MNEMONIC[.SM|.2C] operand, operand, ...` (R125). -/
structure AsmLine where
  mnemonic : String
  suffix : Option Rep
  operands : List AsmOperand
  deriving DecidableEq, Repr

/-- A scalar register operand. -/
def AsmOperand.sreg? : AsmOperand → Option SReg
  | .s n => if h : n < 16 then some ⟨n, h⟩ else none
  | _ => none

/-- A lane container operand. -/
def AsmOperand.vreg? : AsmOperand → Option VReg
  | .v n => if h : n < 8 then some ⟨n, h⟩ else none
  | _ => none

/-- A signed immediate in the range of R114. -/
def AsmOperand.simm? : AsmOperand → Option Int
  | .imm k => if SImmOk k then some k else none
  | _ => none

/-- A lane immediate in the range of R114. -/
def AsmOperand.lane? : AsmOperand → Option Nat
  | .imm k => if 0 ≤ k ∧ LaneImmOk k.toNat then some k.toNat else none
  | _ => none

/-- REP from the suffix; none means REP = 0 (R125). -/
def AsmLine.rep (l : AsmLine) : Rep := l.suffix.getD .sm

/-- A suffix on a command without REP is an error (R125). -/
def AsmLine.plain (l : AsmLine) (i : Option Instr) : Option Instr := if l.suffix = none then i else none

/-! The operand forms of R125. -/

def formNone (ops : List AsmOperand) (i : Instr) : Option Instr := if ops = [] then some i else none

def formS (ops : List AsmOperand) (mk : SReg → Instr) : Option Instr :=
  match ops with
  | [a] => do some (mk (← a.sreg?))
  | _ => none

def formSI (ops : List AsmOperand) (mk : SReg → Int → Instr) : Option Instr :=
  match ops with
  | [a, k] => do some (mk (← a.sreg?) (← k.simm?))
  | _ => none

def formSS (ops : List AsmOperand) (mk : SReg → SReg → Instr) : Option Instr :=
  match ops with
  | [a, b] => do some (mk (← a.sreg?) (← b.sreg?))
  | _ => none

def formSSS (ops : List AsmOperand) (mk : SReg → SReg → SReg → Instr) : Option Instr :=
  match ops with
  | [a, b, c] => do some (mk (← a.sreg?) (← b.sreg?) (← c.sreg?))
  | _ => none

def formSSI (ops : List AsmOperand) (mk : SReg → SReg → Int → Instr) : Option Instr :=
  match ops with
  | [a, b, k] => do some (mk (← a.sreg?) (← b.sreg?) (← k.simm?))
  | _ => none

def formV (ops : List AsmOperand) (mk : VReg → Instr) : Option Instr :=
  match ops with
  | [a] => do some (mk (← a.vreg?))
  | _ => none

def formVV (ops : List AsmOperand) (mk : VReg → VReg → Instr) : Option Instr :=
  match ops with
  | [a, b] => do some (mk (← a.vreg?) (← b.vreg?))
  | _ => none

def formVS (ops : List AsmOperand) (mk : VReg → SReg → Instr) : Option Instr :=
  match ops with
  | [a, b] => do some (mk (← a.vreg?) (← b.sreg?))
  | _ => none

def formSVL (ops : List AsmOperand) (mk : SReg → VReg → Nat → Instr) : Option Instr :=
  match ops with
  | [a, b, k] => do some (mk (← a.sreg?) (← b.vreg?) (← k.lane?))
  | _ => none

def formVSL (ops : List AsmOperand) (mk : VReg → SReg → Nat → Instr) : Option Instr :=
  match ops with
  | [a, b, k] => do some (mk (← a.vreg?) (← b.sreg?) (← k.lane?))
  | _ => none

def formVVV (ops : List AsmOperand) (mk : VReg → VReg → VReg → Instr) : Option Instr :=
  match ops with
  | [a, b, c] => do some (mk (← a.vreg?) (← b.vreg?) (← c.vreg?))
  | _ => none

def formVVI (ops : List AsmOperand) (mk : VReg → VReg → Int → Instr) : Option Instr :=
  match ops with
  | [a, b, k] => do some (mk (← a.vreg?) (← b.vreg?) (← k.simm?))
  | _ => none

/-- The command a line stands for, other than a pseudo-instruction's (R125). -/
def assembleOne (l : AsmLine) : Option Instr :=
  match l.mnemonic with
  | "NOP" => l.plain (formNone l.operands .nop)
  | "CONSTRUCT" => l.plain (formNone l.operands .construct)
  | "ORST" => l.plain (formNone l.operands .orst)
  | "UPDDONE" => formV l.operands (.upddone l.rep)
  | "MOV" => l.plain (formSS l.operands .mov)
  | "LDZ" => l.plain (formS l.operands .ldz)
  | "LDMAX" => formS l.operands (.ldmax l.rep)
  | "LDI" => formSI l.operands (.ldi l.rep)
  | "ADD" => formSSS l.operands (.add l.rep)
  | "SUB" => formSSS l.operands (.sub l.rep)
  | "MUL" => formSSS l.operands (.mul l.rep)
  | "SQR" => formSS l.operands (.sqr l.rep)
  | "MULI" => formSSI l.operands (.muli l.rep)
  | "CMPT" => formS l.operands (.cmpt l.rep)
  | "CMPM" => l.plain (formSS l.operands .cmpm)
  | "TOTC" => l.plain (formSS l.operands .totc)
  | "FROMTC" => l.plain (formSS l.operands .fromtc)
  | "SPLIT" => formS l.operands (.split l.rep)
  | "JOIN" => formS l.operands (.join l.rep)
  | "LIMBLEN" => l.plain (formS l.operands .limblen)
  | "TZLIMB" => l.plain (formS l.operands .tzlimb)
  | "CHK" => formS l.operands (.chk l.rep)
  | "VMOV" => l.plain (formVV l.operands .vmov)
  | "VLDZ" => l.plain (formV l.operands .vldz)
  | "VBCAST" => l.plain (formVS l.operands .vbcast)
  | "VEXT" => l.plain (formSVL l.operands .vext)
  | "VINS" => l.plain (formVSL l.operands .vins)
  | "VADD" => formVVV l.operands (.vadd l.rep)
  | "VSUB" => formVVV l.operands (.vsub l.rep)
  | "VMUL" => formVVV l.operands (.vmul l.rep)
  | "VSQR" => formVV l.operands (.vsqr l.rep)
  | "VMULI" => formVVI l.operands (.vmuli l.rep)
  | "VCMPT" => formV l.operands (.vcmpt l.rep)
  | _ => none

/-- The commands a line stands for, pseudo-instructions expanded (R126). -/
def assemble (l : AsmLine) : Option (List Instr) :=
  match l.mnemonic, l.operands with
  | "CLR", [a] => do some [← l.plain (formS [a] .ldz)]
  | "VCLR", [a] => do some [← l.plain (formV [a] .vldz)]
  | "DBL", [d, a] => do some [← formSSS [d, a, a] (.add l.rep)]
  | "VDBL", [d, a] => do some [← formVVV [d, a, a] (.vadd l.rep)]
  | "NEG", [d, a] => if d = a then none else do some [← formS [d] .ldz, ← formSSS [d, d, a] (.sub l.rep)]
  | "VNEG", [d, a] => if d = a then none else do some [← formV [d] .vldz, ← formVVV [d, d, a] (.vsub l.rep)]
  | _, _ => do some [← assembleOne l]

/-! ### Disassembly -/

/-- A scalar register as written. -/
def asmS (r : SReg) : AsmOperand := .s r

/-- A lane container as written. -/
def asmV (v : VReg) : AsmOperand := .v v

/-- The line that stands for a command (R125), with the suffix written out where the command has REP. -/
def disassemble : Instr → AsmLine
  | .nop => ⟨"NOP", none, []⟩
  | .construct => ⟨"CONSTRUCT", none, []⟩
  | .orst => ⟨"ORST", none, []⟩
  | .upddone rep va => ⟨"UPDDONE", some rep, [asmV va]⟩
  | .mov sd sa => ⟨"MOV", none, [asmS sd, asmS sa]⟩
  | .ldz sd => ⟨"LDZ", none, [asmS sd]⟩
  | .ldmax rep sd => ⟨"LDMAX", some rep, [asmS sd]⟩
  | .ldi rep sd k => ⟨"LDI", some rep, [asmS sd, .imm k]⟩
  | .add rep sd sa sb => ⟨"ADD", some rep, [asmS sd, asmS sa, asmS sb]⟩
  | .sub rep sd sa sb => ⟨"SUB", some rep, [asmS sd, asmS sa, asmS sb]⟩
  | .mul rep sd sa sb => ⟨"MUL", some rep, [asmS sd, asmS sa, asmS sb]⟩
  | .sqr rep sd sa => ⟨"SQR", some rep, [asmS sd, asmS sa]⟩
  | .muli rep sd sa k => ⟨"MULI", some rep, [asmS sd, asmS sa, .imm k]⟩
  | .cmpt rep sa => ⟨"CMPT", some rep, [asmS sa]⟩
  | .cmpm sa sb => ⟨"CMPM", none, [asmS sa, asmS sb]⟩
  | .totc sd sa => ⟨"TOTC", none, [asmS sd, asmS sa]⟩
  | .fromtc sd sa => ⟨"FROMTC", none, [asmS sd, asmS sa]⟩
  | .split rep sd => ⟨"SPLIT", some rep, [asmS sd]⟩
  | .join rep sa => ⟨"JOIN", some rep, [asmS sa]⟩
  | .limblen sa => ⟨"LIMBLEN", none, [asmS sa]⟩
  | .tzlimb sa => ⟨"TZLIMB", none, [asmS sa]⟩
  | .chk rep sa => ⟨"CHK", some rep, [asmS sa]⟩
  | .vmov vd va => ⟨"VMOV", none, [asmV vd, asmV va]⟩
  | .vldz vd => ⟨"VLDZ", none, [asmV vd]⟩
  | .vbcast vd sa => ⟨"VBCAST", none, [asmV vd, asmS sa]⟩
  | .vext sd va lane => ⟨"VEXT", none, [asmS sd, asmV va, .imm lane]⟩
  | .vins vd sa lane => ⟨"VINS", none, [asmV vd, asmS sa, .imm lane]⟩
  | .vadd rep vd va vb => ⟨"VADD", some rep, [asmV vd, asmV va, asmV vb]⟩
  | .vsub rep vd va vb => ⟨"VSUB", some rep, [asmV vd, asmV va, asmV vb]⟩
  | .vmul rep vd va vb => ⟨"VMUL", some rep, [asmV vd, asmV va, asmV vb]⟩
  | .vsqr rep vd va => ⟨"VSQR", some rep, [asmV vd, asmV va]⟩
  | .vmuli rep vd va k => ⟨"VMULI", some rep, [asmV vd, asmV va, .imm k]⟩
  | .vcmpt rep va => ⟨"VCMPT", some rep, [asmV va]⟩

end Sys2Proof.Machine
end

