-- ==== Sys2Proof/Machine/Run.lean ====
section
/-! DEFINITION. Runs and their ends (70_reset_and_hazards.md R360, 43_orchestrator.md R285): where the run that the host's moves
begin with an `ORST` ends, and what its output is. -/

namespace Sys2Proof.Machine

/-- The command word a host move writes to `COMMAND`, if it does (R64, R81). -/
def HostEvent.commandWord? : HostEvent → Option Word
  | .write offset data =>
    if accessOk offset data.length && offset == commandOffset then
      some (commandWord (BitVec.ofNat 64 (leValue data)))
    else none
  | .read _ _ | .reset => none

/-- The command a host move writes to `COMMAND`, if it does and the word is legal. -/
def HostEvent.command? (e : HostEvent) : Option Instr :=
  match e.commandWord? with
  | some w =>
    match decode w with
    | .ok i => some i
    | .error _ => none
  | none => none

/-- The move is an `UPDDONE` command write. -/
def HostEvent.isUpddone (e : HostEvent) : Bool :=
  match e.command? with
  | some (.upddone _ _) => true
  | _ => false

/-- `k` steps, up to the first stop. -/
def stepMany : Nat → State → Host.Outcome State Fault Refusal
  | 0, s => .next s
  | k + 1, s =>
    match step s with
    | .next t => stepMany k t
    | .fault r => .fault r
    | .refused r => .refused r

/-! ### Outputs -/

/-- What a run that ends well gives (R360): counts and done flags of the lanes below `VCOUNT`, `DSUM`, the lane containers and
the two counters. -/
structure RunOutput where
  count : List (BitVec 16)
  done : List Bool
  dsum : Nat
  lanes : Vector Container 8
  acarry : Word
  mcarry : Word
  deriving DecidableEq, Repr

/-- The output that stands in a state. -/
def State.runOutput (s : State) : RunOutput where
  count := s.count.take s.vcount.toNat
  done := s.done.take s.vcount.toNat
  dsum := s.dsum
  lanes := s.vregs
  acarry := s.acarry
  mcarry := s.mcarry

/-- The fault record (R55). -/
structure FaultRecord where
  cause : BitVec 8
  cmd : Word
  lane : Word
  seq : Word
  deriving DecidableEq, Repr

/-- The fault record that stands in a state. -/
def State.faultRecord (s : State) : FaultRecord where
  cause := s.faultCause
  cmd := s.faultCmd
  lane := s.faultLane
  seq := s.faultSeq

/-- What is left to see of a run that ends badly (R360): the fault record, and counts, done flags and lanes as they stood before
the faulting command. It is no output in the sense of R285, which such a run does not have (`RunEnd.protocolOutput`); that the two
rules use the word in two senses is the model's reading: DESIGN CHOICE (notes/assumptions/20.md). -/
structure BadOutput where
  fault : FaultRecord
  count : List (BitVec 16)
  done : List Bool
  lanes : Vector Container 8
  deriving DecidableEq, Repr

/-- The output of a run whose faulting move leads from `before` to `after`. DESIGN CHOICE (notes/assumptions/22.md): R360 gives no
range for `COUNT` and `DONE` here, and the model takes the lanes below `VCOUNT`, as for a good end. -/
def badOutput (before after : State) : BadOutput where
  fault := after.faultRecord
  count := before.count.take before.vcount.toNat
  done := before.done.take before.vcount.toNat
  lanes := before.vregs

/-! ### The end of a run -/

/-- How a run ends (R360; 93_implementation_defined.md H2, H3). -/
inductive RunEnd where
  /-- `STATUS.IPEMPTY` = 1 after an `UPDDONE`, and no fault. -/
  | well (out : RunOutput)
  /-- `FAULT.V` = 1: the record of R360 stands, and there is no output of R285. DESIGN CHOICE (notes/assumptions/20.md). -/
  | bad (out : BadOutput)
  /-- A reset during the run: no output. -/
  | reset
  /-- The host has no further move: no end and no output. -/
  | abandoned
  deriving DecidableEq, Repr

/-- The end of the run through the host's moves `es`, looked at after each of them (R360). DESIGN CHOICE
(notes/assumptions/21.md): an `ORST` dropped because a fault was recorded before it begins a run that ends badly at once, with
the state before that `ORST`. DESIGN CHOICE (notes/assumptions/23.md): R361 leaves the outcome of a run whose host breaks a duty
unsaid, and 93_implementation_defined.md H4 asks nothing of it; the model follows such a run like any other, through steps that
each keep their rule, to the end and output that R360's conditions give. -/
def followRun : List HostEvent → State → RunEnd
  | [], _ => .abandoned
  | e :: es, s =>
    if e = .reset then .reset
    else
      match step { s with host := e :: es } with
      | .next t =>
        if t.faultV then .bad (badOutput s t)
        else if e.isUpddone && t.ipempty then .well t.runOutput
        else followRun es t
      | .fault _ | .refused _ => .abandoned

/-- The run that begins with the host's next move, if that is an `ORST` command write (R360). -/
def State.run (s : State) : Option RunEnd :=
  match s.host with
  | [] => none
  | e :: es => if e.command? = some .orst then some (followRun (e :: es) s) else none

/-- The output the run protocol names (R285): the counts of the lanes below `VCOUNT` in lane order, and `DSUM`. -/
structure ProtocolOutput where
  count : List (BitVec 16)
  dsum : Nat
  deriving DecidableEq, Repr

/-- The counts of a run of k sample points (R285, D51): the first k. -/
def ProtocolOutput.points (out : ProtocolOutput) (k : Nat) : List (BitVec 16) := out.count.take k

/-- The output the run protocol names (R285), of a run with this end: a run with `FAULT.V` = 1 has none, and neither has one that
was reset or abandoned. -/
def RunEnd.protocolOutput : RunEnd → Option ProtocolOutput
  | .well out => some { count := out.count, dsum := out.dsum }
  | .bad _ | .reset | .abandoned => none

/-- The output the run protocol names (R285), of the run that begins with the host's next move. -/
def State.protocolOutput (s : State) : Option ProtocolOutput := s.run.bind RunEnd.protocolOutput

/-! ### Scalar programs -/

/-- The commands a program of scalar commands may hold: they name no lane container and are not the orchestrator's (R360).
DEDUCED (notes/assumptions/19.md). -/
def isScalarCommand : Instr → Bool
  | .orst | .upddone _ _ | .vmov _ _ | .vldz _ | .vbcast _ _ | .vext _ _ _ | .vins _ _ _ | .vadd _ _ _ _ | .vsub _ _ _ _
  | .vmul _ _ _ _ | .vsqr _ _ _ | .vmuli _ _ _ _ | .vcmpt _ _ => false
  | .nop | .construct | .mov _ _ | .ldz _ | .ldmax _ _ | .ldi _ _ _ | .add _ _ _ _ | .sub _ _ _ _ | .mul _ _ _ _
  | .sqr _ _ _ | .muli _ _ _ _ | .cmpt _ _ | .cmpm _ _ | .totc _ _ | .fromtc _ _ | .split _ _ | .join _ _ | .limblen _
  | .tzlimb _ | .chk _ _ => true

/-- How many of the moves there are up to and including the last command write; 0 when there is none. -/
def movesToLastCommand : List HostEvent → Nat
  | [] => 0
  | e :: es =>
    if 0 < movesToLastCommand es then movesToLastCommand es + 1
    else if e.commandWord?.isSome then 1
    else 0

/-- The move may stand in a program of scalar commands: it is no reset, and no command that is not scalar. -/
def HostEvent.inScalarProgram (e : HostEvent) : Bool :=
  match e with
  | .reset => false
  | .read _ _ => true
  | .write _ _ =>
    match e.command? with
    | some i => isScalarCommand i
    | none => true

/-- The output of a program of scalar commands (R360): the state after the host's last command write. None when the host
writes no command, or its moves up to there are no such program. A host that breaks a duty of R361 on the way gets this output too:
DESIGN CHOICE (notes/assumptions/23.md). -/
def State.scalarProgramOutput (s : State) : Option State :=
  let k := movesToLastCommand s.host
  if 0 < k && (s.host.take k).all (·.inScalarProgram) then
    match stepMany k s with
    | .next t => some t
    | .fault _ | .refused _ => none
  else none

end Sys2Proof.Machine
end

