-- ==== Sys2Proof/Safety.lean ====
section
/-! DEFINITION. The terms claims are stated in: the invariant of the state, when a command is not turned away, what it means
that a register or a lane holds a value, and when a run has ended well (70_reset_and_hazards.md R360). -/

namespace Sys2Proof.Machine

/-! ### The invariant -/

/-- The sizes R31, R34, R38 to R41 give the state's parts. -/
abbrev State.Shape (s : State) : Prop :=
  (∀ r : SReg, (s.sregAt r).cells.length = s.params.lMax) ∧
  (∀ v : VReg, (s.vregAt v).length = s.params.vcap ∧ ∀ a ∈ s.vregAt v, a.cells.length = s.params.lMax) ∧
  s.inplay.length = s.params.vcap / 4 ∧ s.done.length = s.params.vcap ∧ s.esc.length = s.params.vcap ∧
  s.count.length = s.params.vcap

/-- A format `CONSTRUCT` can put in force (R9, R159): B is 31 or 32, I from 1 to 32, T = L × B with L from 1 to 63, and
F = T − I. -/
abbrev Format.Legal (f : Format) : Prop :=
  (f.b = 31 ∨ f.b = 32) ∧ (1 ≤ f.i ∧ f.i ≤ 32) ∧ (1 ≤ f.l ∧ f.l ≤ 63) ∧ f.t = f.l * f.b ∧ f.f + f.i = f.t

/-- The configuration (R54, R61, R62): none before the first `CONSTRUCT`, a legal one after it. -/
abbrev State.ConfigOk (s : State) : Prop :=
  (s.configured = false →
    s.fmtI = 0 ∧ s.fmtF = 0 ∧ s.fmtL = 0 ∧ s.fmtT = 0 ∧ s.threshMsl = 0 ∧ s.vcount = 0) ∧
  (s.configured = true →
    s.format.Legal ∧ s.format.l ≤ s.params.lMax ∧ s.threshMsl.toNat < 2 ^ s.format.b ∧
    s.vcount.toNat % 4 = 0 ∧ 4 ≤ s.vcount.toNat ∧ s.vcount.toNat ≤ s.params.vcap)

/-- The fault record (R55, R300): all zero without a fault, a cause of R300 with one. -/
abbrev State.FaultOk (s : State) : Prop :=
  (s.faultV = false → s.faultCause = 0 ∧ s.faultCmd = 0 ∧ s.faultLane = 0 ∧ s.faultSeq = 0) ∧
  (s.faultV = true → 1 ≤ s.faultCause.toNat ∧ s.faultCause.toNat ≤ 10)

/-- The in-play invariant (R280). -/
abbrev State.GroupsOk (s : State) : Prop :=
  ∀ g, g < s.params.vcap / 4 →
    (s.vcount.toNat / 4 ≤ g → s.inplayAt g = false) ∧
    (g < s.vcount.toNat / 4 → s.inplayAt g = false → s.groupDone g = true)

/-- The invariant every step keeps: legal parameters, the state's sizes, the configuration, the fault record, the in-play
invariant, and `STATUS.CMP` never 3 (R54). -/
abbrev State.Inv (s : State) : Prop :=
  s.params.Legal ∧ s.Shape ∧ s.ConfigOk ∧ s.FaultOk ∧ s.GroupsOk ∧ s.cmp ≠ 3

/-- A command is not turned away: no fault is recorded and the block is configured (R310). -/
abbrev State.Ready (s : State) : Prop := s.faultV = false ∧ s.configured = true

/-! ### The opcode map -/

/-- What a field of a command word holds (R113, R114): nothing (marked 0), a scalar register (S), a lane container (V), or
part of an immediate. -/
inductive FieldUse where
  | zero
  | s
  | v
  | imm
  deriving DecidableEq, Repr

/-- The values a field may have (R113). -/
abbrev FieldUse.Allows (u : FieldUse) (n : Nat) : Prop := (u = .zero → n = 0) ∧ (u = .v → n < 8)

/-- A row of the opcode map (R115): its opcode, whether its format is R, the use of RD, RA and RB, and whether REP may be 1. -/
structure MapRow where
  opc : Nat
  formatR : Bool
  rd : FieldUse
  ra : FieldUse
  rb : FieldUse
  rep : Bool
  deriving DecidableEq, Repr

/-- The opcode map of R115, row by row. -/
def opcodeMap : List MapRow := [
  ⟨0x00, true, .zero, .zero, .zero, false⟩, ⟨0x01, true, .zero, .zero, .zero, false⟩,
  ⟨0x02, true, .zero, .zero, .zero, false⟩, ⟨0x03, true, .zero, .v, .zero, true⟩,
  ⟨0x10, true, .s, .s, .zero, false⟩, ⟨0x11, true, .s, .zero, .zero, false⟩, ⟨0x12, true, .s, .zero, .zero, true⟩,
  ⟨0x13, false, .s, .zero, .imm, true⟩, ⟨0x14, true, .s, .s, .s, true⟩, ⟨0x15, true, .s, .s, .s, true⟩,
  ⟨0x16, true, .s, .s, .s, true⟩, ⟨0x17, true, .s, .s, .zero, true⟩, ⟨0x18, false, .s, .s, .imm, true⟩,
  ⟨0x19, true, .zero, .s, .zero, true⟩, ⟨0x1A, true, .zero, .s, .s, false⟩,
  ⟨0x20, true, .s, .s, .zero, false⟩, ⟨0x21, true, .s, .s, .zero, false⟩, ⟨0x22, true, .s, .zero, .zero, true⟩,
  ⟨0x23, true, .zero, .s, .zero, true⟩, ⟨0x24, true, .zero, .s, .zero, false⟩, ⟨0x25, true, .zero, .s, .zero, false⟩,
  ⟨0x26, true, .zero, .s, .zero, true⟩,
  ⟨0x30, true, .v, .v, .zero, false⟩, ⟨0x31, true, .v, .zero, .zero, false⟩, ⟨0x32, true, .v, .s, .zero, false⟩,
  ⟨0x33, false, .s, .v, .imm, false⟩, ⟨0x34, false, .v, .s, .imm, false⟩, ⟨0x35, true, .v, .v, .v, true⟩,
  ⟨0x36, true, .v, .v, .v, true⟩, ⟨0x37, true, .v, .v, .v, true⟩, ⟨0x38, true, .v, .v, .zero, true⟩,
  ⟨0x39, false, .v, .v, .imm, true⟩, ⟨0x3A, true, .zero, .v, .zero, true⟩]

/-- The word obeys the row: none of the clauses of R116 about its fields holds. -/
abbrev MapRow.Obeyed (r : MapRow) (w : Word) : Prop :=
  opcOf w = r.opc ∧ bits w 11 9 = 0 ∧ (r.formatR = true → bits w 31 24 = 0) ∧ r.rd.Allows (rdOf w) ∧
    r.ra.Allows (raOf w) ∧ r.rb.Allows (rbOf w) ∧ (r.rep = false → bits w 8 8 = 0)

/-- The word is legal by the clauses of R116. -/
abbrev LegalWord (w : Word) : Prop := ∃ r ∈ opcodeMap, r.Obeyed w

/-! ### Faults and writes -/

/-- Writing the command i in the state s faults with the cause code c (R300) and `FAULT_LANE` lane: only `CMDCNT` and the
fault record change (R310, R311). -/
def CommandFaults (i : Instr) (s : State) (c : BitVec 8) (lane : Word) : Prop :=
  exec i s = .next { s with
    cmdcnt := s.cmdcnt + 1, faultCause := c, faultV := true, faultCmd := encode i, faultLane := lane,
    faultSeq := s.cmdcnt }

/-- The host's 8-byte write of v at a window offset (R81, R82). -/
def host8 (offset : BitVec 23) (v : Cell) : HostEvent := .write offset (leBytes 8 v.toNat)

/-! ### Holding a value -/

/-- The Number is valid, its scaled integer is x, and its sign is x's, 1 for 0 (R147 to R149): it is `enc_REP(x)` in cells
0..L−1 and the sign. -/
def HoldsNumber (f : Format) (rep : Rep) (a : Number) (x : Int) : Prop :=
  validRep f rep a = true ∧ xRep f rep a = x ∧ a.sign = decide (0 ≤ x)

/-- From s to t the scalar register sd came to hold the cells k < L and the sign of a, its cells k ≥ L did not change, and no
other scalar register did. -/
def SregCopies (s t : State) (sd : SReg) (a : Number) : Prop :=
  (∀ k, k < s.format.l → (t.sregAt sd).cell k = a.cell k) ∧ (t.sregAt sd).sign = a.sign ∧
  (∀ k, s.format.l ≤ k → (t.sregAt sd).cell k = (s.sregAt sd).cell k) ∧
  ∀ r, r ≠ sd → t.sregAt r = s.sregAt r

/-- From s to t the scalar register sd came to hold x, its cells k ≥ L did not change, and no other scalar register did. -/
def SregHolds (s t : State) (sd : SReg) (rep : Rep) (x : Int) : Prop :=
  HoldsNumber s.format rep (t.sregAt sd) x ∧
  (∀ k, s.format.l ≤ k → (t.sregAt sd).cell k = (s.sregAt sd).cell k) ∧
  ∀ r, r ≠ sd → t.sregAt r = s.sregAt r

/-- Two Numbers agree in cells 0..L−1 and the sign. -/
def SameNumber (l : Nat) (a b : Number) : Prop := (∀ k, k < l → a.cell k = b.cell k) ∧ a.sign = b.sign

/-- From s to t, in container vd the lanes outside `p` did not change, no lane's cells k ≥ L did, and no other container
changed. -/
def LanesFrame (s t : State) (vd : VReg) (p : Nat → Bool) : Prop :=
  (∀ n, p n = false → t.laneAt vd n = s.laneAt vd n) ∧
  (∀ n k, s.format.l ≤ k → (t.laneAt vd n).cell k = (s.laneAt vd n).cell k) ∧
  ∀ v, v ≠ vd → t.vregAt v = s.vregAt v

/-- The Numbers have equally many cells and agree in cells 0..L−1 and the sign. -/
def AgreeBelow (l : Nat) (a b : Number) : Prop := a.cells.length = b.cells.length ∧ SameNumber l a b

/-- The states differ in nothing but cells k ≥ L of registers and lanes, L = `FMT.L` (R32). -/
def AgreeUpToL (s u : State) : Prop :=
  u = { s with sregs := u.sregs, vregs := u.vregs } ∧
  (∀ r, AgreeBelow s.format.l (s.sregAt r) (u.sregAt r)) ∧
  ∀ v, (s.vregAt v).length = (u.vregAt v).length ∧ ∀ n, AgreeBelow s.format.l (s.laneAt v n) (u.laneAt v n)

/-! ### Exact results -/

/-- The exact shift of R172: R × 2^s, or R div 2^(−s). -/
def alignedMagnitude (r : Nat) (shift : Int) : Nat :=
  if 0 ≤ shift then r * 2 ^ shift.toNat else r / 2 ^ (-shift).toNat

/-- The product of two scaled integers, its magnitude truncated to F fractional bits (R155). -/
def truncatedProduct (f : Format) (xa xb : Int) : Int :=
  signedProduct xa xb (xa.natAbs * xb.natAbs / 2 ^ f.f)

/-- v, or when it is out of range the maximum integer with the sign of v (R156, R204). -/
def saturated (f : Format) (rep : Rep) (v : Int) : Int :=
  if inrangeRep f rep v then v else if 0 < v then maxInteger f rep else -maxInteger f rep

/-- The static check of `MULI` lets the product through (R203). -/
def muliAdmits (f : Format) (xa k : Int) : Prop :=
  xa = 0 ∨ k = 0 ∨ bitlen (xa.natAbs / 2 ^ f.f) + bitlen k.natAbs ≤ f.i

/-! ### The window -/

/-- An 8-byte host read at offset o returns the value v and changes nothing (R82, R90). -/
def HostReads (s : State) (o : Nat) (v : Cell) : Prop :=
  serve (.read (BitVec.ofNat 23 o) 8) s = .next { s with hostData := leBytes 8 v.toNat }

/-- The offset is that of a `RAW` word, of a register cell or of a lane cell (R84, R86, R87). -/
def CellOffset (p : Params) (o : Nat) : Prop :=
  (∃ w, w < 64 ∧ o = 0x1000 + 8 * w) ∨
  (∃ r k, r < 16 ∧ k < p.lMax ∧ o = 0x2000 + 0x200 * r + 8 * k) ∨
  ∃ v k n, v < 8 ∧ k < p.lMax ∧ n < p.vcap ∧ o = 0x100000 + 0x80000 * v + 0x2000 * k + 8 * n

/-- The offset is that of the sign of a register or of a lane: row 63 (R84, R86). -/
def SignOffset (p : Params) (o : Nat) : Prop :=
  (∃ r, r < 16 ∧ o = 0x2000 + 0x200 * r + 8 * 63) ∨
  ∃ v n, v < 8 ∧ n < p.vcap ∧ o = 0x100000 + 0x80000 * v + 0x2000 * 63 + 8 * n

/-- The offset is that of a `COUNT` (R85). -/
def CountOffset (p : Params) (o : Nat) : Prop := ∃ n, n < p.vcap ∧ o = 0x4000 + 8 * n

/-- The offset is that of a `DONE`, `ESC` or `INPLAY` word (R85). -/
def FlagWordOffset (o : Nat) : Prop :=
  (∃ w, w < 16 ∧ o = 0x6000 + 8 * w) ∨ (∃ w, w < 16 ∧ o = 0x6100 + 8 * w) ∨ ∃ w, w < 4 ∧ o = 0x6200 + 8 * w

/-- A write of v at offset o makes it read `back`, changes what no other offset reads, and changes no state but registers,
lanes, `COUNT` and `RAW`. -/
def WriteReadsBack (s : State) (o : BitVec 23) (v back : Cell) : Prop :=
  ∃ t, serve (host8 o v) s = .next t ∧
    t = { s with sregs := t.sregs, vregs := t.vregs, count := t.count, raw := t.raw } ∧
    HostReads t o.toNat back ∧
    ∀ (o' : BitVec 23) (x : Cell), o' ≠ o → o'.toNat % 8 = 0 → HostReads s o'.toNat x → HostReads t o'.toNat x

/-- The offsets that R50, R80 and R84 to R86 leave reserved. -/
def ReservedOffset (p : Params) (o : Nat) : Prop :=
  (0x0000B0 ≤ o ∧ o < 0x001000) ∨ (0x001200 ≤ o ∧ o < 0x002000) ∨
  (∃ r k, r < 16 ∧ p.lMax ≤ k ∧ k < 63 ∧ o = 0x002000 + 0x200 * r + 8 * k) ∨
  (∃ n, p.vcap ≤ n ∧ o = 0x004000 + 8 * n ∧ o < 0x006000) ∨
  (0x006080 ≤ o ∧ o < 0x006100) ∨ (0x006180 ≤ o ∧ o < 0x006200) ∨ (0x006220 ≤ o ∧ o < 0x100000) ∨
  (∃ v k n, v < 8 ∧ k < 64 ∧ n < 1024 ∧ ((p.lMax ≤ k ∧ k < 63) ∨ p.vcap ≤ n) ∧
    o = 0x100000 + 0x80000 * v + 0x2000 * k + 8 * n) ∨
  0x500000 ≤ o

/-! ### Vector commands as scalar commands -/

/-- A vector arithmetic command, as its destination, the scalar command of the same name from `s0` and `s1` to `s2`, and its
source containers (R253). -/
def scalarForm : Instr → Option (VReg × Instr × VReg × VReg)
  | .vadd rep vd va vb => some (vd, .add rep 2 0 1, va, vb)
  | .vsub rep vd va vb => some (vd, .sub rep 2 0 1, va, vb)
  | .vmul rep vd va vb => some (vd, .mul rep 2 0 1, va, vb)
  | .vsqr rep vd va => some (vd, .sqr rep 2 0, va, va)
  | .vmuli rep vd va k => some (vd, .muli rep 2 0 k, va, va)
  | .nop | .construct | .orst | .upddone _ _ | .mov _ _ | .ldz _ | .ldmax _ _ | .ldi _ _ _ | .add _ _ _ _
  | .sub _ _ _ _ | .mul _ _ _ _ | .sqr _ _ _ | .muli _ _ _ _ | .cmpt _ _ | .cmpm _ _ | .totc _ _ | .fromtc _ _
  | .split _ _ | .join _ _ | .limblen _ | .tzlimb _ | .chk _ _ | .vmov _ _ | .vldz _ | .vbcast _ _ | .vext _ _ _
  | .vins _ _ _ | .vcmpt _ _ => none

/-- s with lane n of va and vb placed in the scalar registers `s0` and `s1`. -/
def State.withLaneInScalars (s : State) (va vb : VReg) (n : Nat) : State :=
  { s with sregs := (s.sregs.set 0 (s.laneAt va n)).set 1 (s.laneAt vb n) }

/-! ### Runs -/

/-- A run has ended well (R360): no group is in play and no fault is recorded. -/
abbrev State.EndedWell (s : State) : Prop := s.ipempty = true ∧ s.faultV = false

/-- The move is a write to `TARGET` or to a `COUNT` slot. -/
def HostEvent.writesCountOrTarget : HostEvent → Bool
  | .write offset _ => offset == 0x070 || (decide (0x4000 ≤ offset.toNat) && decide (offset.toNat < 0x6000))
  | .read _ _ | .reset => false

/-- A host move that R284 allows during a run of constant `TARGET`: no reset, no `ORST` or `CONSTRUCT`, and no write to `TARGET`
or to a `COUNT` slot. Every other access is one: reads, data writes, register writes, other commands, bad accesses. -/
abbrev HostEvent.LeavesRun (e : HostEvent) : Prop :=
  e ≠ .reset ∧ e.command? ≠ some .orst ∧ e.command? ≠ some .construct ∧ e.writesCountOrTarget = false

end Sys2Proof.Machine
end

