-- ==== Sys2Proof/Certificates/Slice0/Obligations.lean ====
section
/-! DEFINITION. The statements for the provers. Each docstring names the rule or section of spec/ it formalises. A command's
statement of its result is also the statement that it completes: under its premises on the state and the operands, `exec`
answers a next state, and the record update says everything the command leaves unchanged. -/

open Sys2Proof Sys2Proof.Machine

/-! ### Encoding -/

/-- 30_encoding.md §1, §2 (R111 to R115): the decoder reads every command back from its word, with every operand. -/
def Obligations.DecodeOfEncode : Prop := ∀ i : Instr, WellFormed i → decode (encode i) = .ok i

/-- 30_encoding.md §1, §2: a legal word has one meaning and the encoder writes that word; no bit of it is dropped. -/
def Obligations.EncodeOfDecode : Prop :=
  ∀ (w : Word) (i : Instr), decode w = .ok i → WellFormed i ∧ encode i = w

/-- R116: which words are illegal, that they raise `ILLEGAL_COMMAND`, and that the mask and match table says the same. -/
def Obligations.LegalWordsMatchTheTable : Prop :=
  ∀ w : Word,
    ((∃ i, decode w = .ok i) ↔ LegalWord w) ∧
    (LegalWord w ↔ ∃ r ∈ opcodeTable, rowMatches r w = true) ∧
    (∀ r₁ ∈ opcodeTable, ∀ r₂ ∈ opcodeTable, rowMatches r₁ w = true → rowMatches r₂ w = true → r₁ = r₂) ∧
    (∀ r ∈ opcodeTable, ∀ i, rowMatches r w = true → decode w = .ok i → (disassemble i).mnemonic = r.mnemonic) ∧
    (¬ LegalWord w → ∀ s : State, s.faultV = false → ∃ t, runWord w s = .next t ∧ t.faultCause = 0x01)

/-- R127: the encoding examples, from the assembly line to the word and back. -/
def Obligations.EncodingExamples : Prop :=
  ∀ e ∈ [((⟨"ADD", some .tc, [.s 2, .s 0, .s 1]⟩ : AsmLine), (0x00102114 : Word)),
      (⟨"MUL", none, [.s 2, .s 0, .s 1]⟩, 0x00102016), (⟨"VSQR", some .tc, [.v 6, .v 6]⟩, 0x00066138),
      (⟨"MULI", none, [.s 3, .s 2, .imm (-2)]⟩, 0xFFE23018), (⟨"VEXT", none, [.s 1, .v 3, .imm 5]⟩, 0x00531033),
      (⟨"UPDDONE", none, [.v 6]⟩, 0x00060003), (⟨"NOP", none, []⟩, 0x00000000)],
    ∃ i, assembleOne e.1 = some i ∧ encode i = e.2 ∧ decode e.2 = .ok i

/-- 30_encoding.md §3 (R125, R126): every command has a line that assembles to it, and the pseudo-instructions expand as the
table says. -/
def Obligations.AssemblerRoundTrip : Prop :=
  (∀ i, WellFormed i → assembleOne (disassemble i) = some i) ∧
  (∀ a : SReg, assemble ⟨"CLR", none, [.s a]⟩ = some [.ldz a]) ∧
  (∀ a : VReg, assemble ⟨"VCLR", none, [.v a]⟩ = some [.vldz a]) ∧
  (∀ (rep : Rep) (d a : SReg), assemble ⟨"DBL", some rep, [.s d, .s a]⟩ = some [.add rep d a a]) ∧
  (∀ (rep : Rep) (d a : VReg), assemble ⟨"VDBL", some rep, [.v d, .v a]⟩ = some [.vadd rep d a a]) ∧
  (∀ (rep : Rep) (d a : SReg), assemble ⟨"NEG", some rep, [.s d, .s a]⟩ =
    if d = a then none else some [.ldz d, .sub rep d d a]) ∧
  (∀ (rep : Rep) (d a : VReg), assemble ⟨"VNEG", some rep, [.v d, .v a]⟩ =
    if d = a then none else some [.vldz d, .vsub rep d d a])

/-! ### Steps, faults and the host port -/

/-- R64: a write to `COMMAND` executes the command word in bits [31:0]; bits [63:32] are ignored; a read returns 0. So a step
at such a write is `exec` of the decoded command, with the write taken off the host's moves. -/
def Obligations.CommandWriteRunsTheCommand : Prop :=
  ∀ (s : State) (rest : List HostEvent),
    (∀ (v : Cell) (i : Instr), s.host = host8 0x038 v :: rest → decode (v.setWidth 32) = .ok i →
      step s = exec i { s with host := rest }) ∧
    (∀ (v : Cell) (e : Illegal), s.host = host8 0x038 v :: rest → decode (v.setWidth 32) = .error e →
      step s = runIllegal (v.setWidth 32) { s with host := rest }) ∧
    (s.host = .read 0x038 8 :: rest → step s = .next { s with host := rest, hostData := List.replicate 8 0 })

/-- 60_exceptions.md §2, 93_implementation_defined.md §4 (H2): no command and no host move stops the block; it only waits
when the host has no further move. -/
def Obligations.NothingStopsTheBlock : Prop :=
  (∀ (i : Instr) (s : State), ∃ t, exec i s = .next t) ∧
  (∀ s : State, s.host ≠ [] → ∃ t, step s = .next t) ∧
  ∀ s : State, s.host = [] → step s = .fault .hostIdle

/-- R302: an illegal word raises `ILLEGAL_COMMAND`, no other word does, and only `CMDCNT` and the fault record change. -/
def Obligations.IllegalWordsFault : Prop :=
  ∀ (w : Word) (s : State), s.faultV = false →
    (¬ LegalWord w → runWord w s = .next { s with
      cmdcnt := s.cmdcnt + 1, faultCause := 0x01, faultV := true, faultCmd := w, faultLane := 0xFFFFFFFF,
      faultSeq := s.cmdcnt }) ∧
    (LegalWord w → ∀ t, runWord w s = .next t → t.faultV = true → t.faultCause ≠ 0x01)

/-- R303: `NOT_CONFIGURED` is raised by every legal command but `NOP` and `CONSTRUCT` while `CONFIGURED` = 0, which is so after
reset and until a `CONSTRUCT` succeeds: no other command and no other host access sets or clears it. -/
def Obligations.NotConfigured : Prop :=
  (∀ (i : Instr) (s : State), s.faultV = false → s.configured = false → i ≠ .nop → i ≠ .construct →
    CommandFaults i s 0x02 0xFFFFFFFF) ∧
  (∀ (i : Instr) (s t : State), s.faultV = false → exec i s = .next t → t.faultV = true → t.faultCause = 0x02 →
    s.configured = false ∧ i ≠ .nop ∧ i ≠ .construct) ∧
  (∀ p, (State.resetWith p).configured = false) ∧
  (∀ (i : Instr) (s t : State), s.configured = false → exec i s = .next t → t.configured = true →
    i = .construct ∧ t.faultV = false) ∧
  (∀ (i : Instr) (s t : State), s.configured = true → exec i s = .next t → t.configured = true) ∧
  (∀ (w : Word) (s t : State), (∀ i, decode w ≠ .ok i) → runWord w s = .next t → t.configured = s.configured) ∧
  (∀ (o : BitVec 23) (width : Nat) (s t : State), serve (.read o width) s = .next t → t.configured = s.configured) ∧
  ∀ (o : BitVec 23) (data : List Byte) (s t : State), o ≠ 0x038 → serve (.write o data) s = .next t →
    t.configured = s.configured

/-- 60_exceptions.md §4 (R315, R316), 10_state.md §7 (R55): while a fault is recorded every command word is dropped; the
write of `FAULT` bit 8 clears the record and nothing else, and any other write of `FAULT` does nothing. -/
def Obligations.DroppedUntilCleared : Prop :=
  (∀ (w : Word) (s : State), s.faultV = true → runWord w s = .next { s with dropped := true }) ∧
  (∀ (i : Instr) (s : State), s.faultV = true → exec i s = .next { s with dropped := true }) ∧
  (∀ (v : Cell) (s : State), v.getLsbD 8 = true → serve (host8 0x018 v) s =
    .next { s with faultCause := 0, faultV := false, faultCmd := 0, faultLane := 0, faultSeq := 0 }) ∧
  ∀ (v : Cell) (s : State), v.getLsbD 8 = false → serve (host8 0x018 v) s = .next s

/-- R311 (with R312): a fault writes exactly the fault record; beside it only `CMDCNT` has changed. -/
def Obligations.FaultWritesExactlyTheRecord : Prop :=
  ∀ (w : Word) (s t : State), s.faultV = false → runWord w s = .next t → t.faultV = true →
    (∃ c lane, 1 ≤ c.toNat ∧ c.toNat ≤ 10 ∧ t = { s with
      cmdcnt := s.cmdcnt + 1, faultCause := c, faultV := true, faultCmd := w, faultLane := lane,
      faultSeq := s.cmdcnt }) ∧
    (t.readCsr .status).getLsbD 1 = true

/-- 41_scalar_engine.md §1 (R200), 40_format_codec.md §1 (R145): a scalar command that reads a Number faults on an invalid
one before it changes anything. -/
def Obligations.InvalidOperandFaults : Prop :=
  ∀ s : State, s.Ready → ∀ (rep : Rep) (sd sa sb : SReg) (k : Int),
    (validRep s.format rep (s.sregAt sa) = false ∨ validRep s.format rep (s.sregAt sb) = false →
      CommandFaults (.add rep sd sa sb) s 0x07 0xFFFFFFFF ∧ CommandFaults (.sub rep sd sa sb) s 0x07 0xFFFFFFFF ∧
      CommandFaults (.mul rep sd sa sb) s 0x07 0xFFFFFFFF) ∧
    (validRep s.format rep (s.sregAt sa) = false →
      CommandFaults (.sqr rep sd sa) s 0x07 0xFFFFFFFF ∧ CommandFaults (.muli rep sd sa k) s 0x07 0xFFFFFFFF ∧
      CommandFaults (.cmpt rep sa) s 0x07 0xFFFFFFFF ∧ CommandFaults (.join rep sa) s 0x07 0xFFFFFFFF) ∧
    (validSM s.format (s.sregAt sa) = false ∨ validSM s.format (s.sregAt sb) = false →
      CommandFaults (.cmpm sa sb) s 0x07 0xFFFFFFFF) ∧
    (validSM s.format (s.sregAt sa) = false → CommandFaults (.totc sd sa) s 0x07 0xFFFFFFFF) ∧
    (valid2C s.format (s.sregAt sa) = false → CommandFaults (.fromtc sd sa) s 0x07 0xFFFFFFFF)

/-- R314: the lowest active lane with a failure decides the fault of a vector command, and in that lane an invalid operand
comes before a product out of range. -/
def Obligations.LowestFailingLane : Prop :=
  ∀ s : State, s.Inv → s.Ready → ∀ (rep : Rep) (vd va vb : VReg) (k : Int) (n : Nat), SImmOk k → s.isActive n = true →
    let f := s.format
    let ok := fun m => validRep f rep (s.laneAt va m) = true
    let okb := fun m => validRep f rep (s.laneAt vb m) = true
    let xa := fun m => xRep f rep (s.laneAt va m)
    let xb := fun m => xRep f rep (s.laneAt vb m)
    let mulFits := fun m => inrangeRep f rep (truncatedProduct f (xa m) (xb m)) = true
    let sqrFits := fun m => inrangeRep f rep (truncatedProduct f (xa m) (xa m)) = true
    let muliFits := fun m => muliAdmits f (xa m) k ∧ inrangeRep f rep (xa m * k) = true
    let below := fun P : Nat → Prop => ∀ m, m < n → s.isActive m = true → P m
    let lane := BitVec.ofNat 32 n
    (below (fun m => ok m ∧ okb m ∧ mulFits m) →
      (¬ (ok n ∧ okb n) → CommandFaults (.vmul rep vd va vb) s 0x07 lane) ∧
      (ok n → okb n → ¬ mulFits n → CommandFaults (.vmul rep vd va vb) s 0x08 lane)) ∧
    (below (fun m => ok m ∧ sqrFits m) →
      (¬ ok n → CommandFaults (.vsqr rep vd va) s 0x07 lane) ∧
      (ok n → ¬ sqrFits n → CommandFaults (.vsqr rep vd va) s 0x08 lane)) ∧
    (below (fun m => ok m ∧ muliFits m) →
      (¬ ok n → CommandFaults (.vmuli rep vd va k) s 0x07 lane) ∧
      (ok n → ¬ muliFits n → CommandFaults (.vmuli rep vd va k) s 0x08 lane)) ∧
    (below (fun m => ok m ∧ okb m) → ¬ (ok n ∧ okb n) →
      CommandFaults (.vadd rep vd va vb) s 0x07 lane ∧ CommandFaults (.vsub rep vd va vb) s 0x07 lane) ∧
    (below ok → ¬ ok n → CommandFaults (.vcmpt rep va) s 0x07 lane ∧ CommandFaults (.upddone rep va) s 0x07 lane)

/-- 20_memory.md §2 (R81): an access of another width or at another alignment only sets `STATUS.BUSERR`; such a read returns 0.
How many zero bytes it returns, one for each byte asked for, R81 does not say: that is the model's choice (log entry 7). -/
def Obligations.BadAccessSetsBusError : Prop :=
  ∀ (o : BitVec 23) (s : State),
    (∀ width, width ≠ 8 ∨ o.toNat % 8 ≠ 0 →
      serve (.read o width) s = .next { s with buserr := true, hostData := List.replicate width 0 }) ∧
    ∀ data : List Byte, data.length ≠ 8 ∨ o.toNat % 8 ≠ 0 → serve (.write o data) s = .next { s with buserr := true }

/-- R88: a reserved offset reads as 0 and ignores writes, without setting `STATUS.BUSERR`. -/
def Obligations.ReservedOffsets : Prop :=
  ∀ (o : BitVec 23) (s : State), s.params.Legal → o.toNat % 8 = 0 → ReservedOffset s.params o.toNat →
    serve (.read o 8) s = .next { s with hostData := List.replicate 8 0 } ∧
    ∀ v : Cell, serve (host8 o v) s = .next s

/-- 20_memory.md §3, §4 (R84 to R87, R90): which offset shows which cell, sign, count, `RAW` word and orchestrator flag; a write
to a data slot is read back there (a sign as its mask, a count as its 16 bits) and changes no other slot; a write to an
orchestrator word changes nothing; and no read changes anything. -/
def Obligations.DataSlotReadsBack : Prop :=
  ∀ s : State, s.Inv →
    let sign := fun b : Bool => if b then (0xFFFFFFFFFFFFFFFF : Cell) else 0
    (∀ (r : SReg) (k : Nat), k < s.params.lMax → HostReads s (0x2000 + 0x200 * r.val + 8 * k) ((s.sregAt r).cell k)) ∧
    (∀ r : SReg, HostReads s (0x2000 + 0x200 * r.val + 8 * 63) (sign (s.sregAt r).sign)) ∧
    (∀ (v : VReg) (k n : Nat), k < s.params.lMax → n < s.params.vcap →
      HostReads s (0x100000 + 0x80000 * v.val + 0x2000 * k + 8 * n) ((s.laneAt v n).cell k)) ∧
    (∀ (v : VReg) (n : Nat), n < s.params.vcap →
      HostReads s (0x100000 + 0x80000 * v.val + 0x2000 * 63 + 8 * n) (sign (s.laneAt v n).sign)) ∧
    (∀ n, n < s.params.vcap → HostReads s (0x4000 + 8 * n) ((s.countAt n).setWidth 64)) ∧
    (∀ w : Fin 64, HostReads s (0x1000 + 8 * w.val) s.raw[w]) ∧
    (∀ w, w < 16 → ∃ x, HostReads s (0x6000 + 8 * w) x ∧ ∀ j, j < 64 →
      x.getLsbD j = (decide (64 * w + j < s.params.vcap) && s.doneAt (64 * w + j))) ∧
    (∀ w, w < 16 → ∃ x, HostReads s (0x6100 + 8 * w) x ∧ ∀ j, j < 64 →
      x.getLsbD j = (decide (64 * w + j < s.params.vcap) && s.escAt (64 * w + j))) ∧
    (∀ w, w < 4 → ∃ x, HostReads s (0x6200 + 8 * w) x ∧ ∀ j, j < 64 →
      x.getLsbD j = (decide (64 * w + j < s.params.vcap / 4) && s.inplayAt (64 * w + j))) ∧
    (∀ (o : BitVec 23) (v : Cell), FlagWordOffset o.toNat → serve (host8 o v) s = .next s) ∧
    (∀ (o : BitVec 23) (v : Cell), CellOffset s.params o.toNat → WriteReadsBack s o v v) ∧
    (∀ (o : BitVec 23) (v : Cell), SignOffset s.params o.toNat → WriteReadsBack s o v (sign (v.getLsbD 0))) ∧
    (∀ (o : BitVec 23) (v : Cell), CountOffset s.params o.toNat → WriteReadsBack s o v ((v.setWidth 16).setWidth 64)) ∧
    ∀ o : BitVec 23, o.toNat % 8 = 0 → ∃ x, HostReads s o.toNat x

/-- R65: what `CMDCNT` counts, that a faulting command's sequence number is the count it was given, and the host's write.
R163: `NOP`, its word, that it only counts, whether or not the block is configured, and that it is dropped like any other. -/
def Obligations.CommandCount : Prop :=
  (∀ (w : Word) (s t : State), runWord w s = .next t →
    (s.faultV = false → t.cmdcnt = s.cmdcnt + 1 ∧ (t.faultV = true → t.faultSeq = s.cmdcnt)) ∧
    (s.faultV = true → t.cmdcnt = s.cmdcnt)) ∧
  (∀ (v : Cell) (s : State), serve (host8 0x040 v) s = .next { s with cmdcnt := v.setWidth 32 }) ∧
  (∀ p, (State.resetWith p).cmdcnt = 0) ∧ (∀ s : State, HostReads s 0x040 (s.cmdcnt.setWidth 64)) ∧
  encode .nop = 0x00000000 ∧ decode 0x00000000 = .ok .nop ∧
  (∀ s : State, s.faultV = false → exec .nop s = .next { s with cmdcnt := s.cmdcnt + 1 }) ∧
  ∀ s : State, s.faultV = true → exec .nop s = .next { s with dropped := true }

/-- R52: the fields of `CAP`, which every step leaves as they are. -/
def Obligations.CapConstant : Prop :=
  (∀ s : State, s.params.Legal →
    let cap := s.readSlot (slotOf s.params 0x000)
    cap.toNat % 2 ^ 8 = s.params.limbBits ∧ cap.toNat / 2 ^ 8 % 2 ^ 8 = s.params.lMax ∧
    cap.toNat / 2 ^ 16 % 2 ^ 16 = s.params.vcap ∧ cap.toNat / 2 ^ 32 % 2 ^ 8 = 16 ∧ cap.toNat / 2 ^ 40 % 2 ^ 8 = 8 ∧
    cap.toNat / 2 ^ 48 % 2 ^ 8 = 4 ∧ cap.toNat / 2 ^ 56 = 1) ∧
  (∀ p, (State.resetWith p).params = p) ∧
  ∀ s t : State, step s = .next t → t.params = s.params ∧
    t.readSlot (slotOf t.params 0x000) = s.readSlot (slotOf s.params 0x000)

/-- 10_state.md §7 (R50, R51, R53, R55 to R63, R66 to R68): the control register accesses no other statement gives. The writes of
`CTRL`, `TARGET`, `ACARRY`, `MCARRY`, `RAW_EXP` and `RAW_SIGN`, each at its offset, with its width and nothing else changed; the
read-only registers, which ignore a write; the fields of `FMT`; and what every register reads but `CAP`, `STATUS`, `COMMAND` and
`CMDCNT`. Elsewhere: the writes of `CFG_*` (ConfigurationLatch) and `FAULT` (DroppedUntilCleared), the read of `CAP` (CapConstant),
and both accesses of `STATUS` (StatusAndInterrupt), `COMMAND` (CommandWriteRunsTheCommand) and `CMDCNT` (CommandCount). -/
def Obligations.ControlRegisterAccess : Prop :=
  ∀ s : State,
    (∀ v : Cell,
      serve (host8 0x008 v) s = .next { s with fie := v.getLsbD 0, die := v.getLsbD 1 } ∧
      serve (host8 0x070 v) s = .next { s with target := v.setWidth 16 } ∧
      serve (host8 0x090 v) s = .next { s with acarry := v.setWidth 32 } ∧
      serve (host8 0x098 v) s = .next { s with mcarry := v.setWidth 32 } ∧
      serve (host8 0x0A0 v) s = .next { s with rawExp := v.setWidth 32 } ∧
      serve (host8 0x0A8 v) s = .next { s with rawSign := v.getLsbD 0 }) ∧
    (∀ o ∈ [(0x000 : BitVec 23), 0x020, 0x028, 0x030, 0x048, 0x078, 0x080, 0x088], ∀ v : Cell,
      serve (host8 o v) s = .next s) ∧
    (∃ x, HostReads s 0x008 x ∧ x.toNat = s.fie.toNat + 2 * s.die.toNat) ∧
    (∃ x, HostReads s 0x018 x ∧ x.toNat = s.faultCause.toNat + 2 ^ 8 * s.faultV.toNat) ∧
    (∀ e ∈ [(0x020, s.faultCmd), (0x028, s.faultLane), (0x030, s.faultSeq), (0x048, s.res), (0x060, s.cfgThresh),
      (0x090, s.acarry), (0x098, s.mcarry)], HostReads s e.1 (e.2.setWidth 64)) ∧
    (∀ e ∈ [(0x058, s.cfgFrac), (0x068, s.cfgVcount), (0x070, s.target), (0x088, s.vcount)],
      HostReads s e.1 (e.2.setWidth 64)) ∧
    HostReads s 0x050 (s.cfgBbp.setWidth 64) ∧ HostReads s 0x080 s.threshMsl ∧
    (∃ x, HostReads s 0x078 x ∧ x.toNat % 2 ^ 8 = s.fmtI.toNat ∧ x.toNat / 2 ^ 8 % 2 ^ 16 = s.fmtF.toNat ∧
      x.toNat / 2 ^ 24 % 2 ^ 8 = s.fmtL.toNat ∧ x.toNat / 2 ^ 32 = s.fmtT.toNat) ∧
    (∃ x, HostReads s 0x0A0 x ∧ x.toInt = s.rawExp.toInt) ∧ ∃ x, HostReads s 0x0A8 x ∧ x.toNat = s.rawSign.toNat

/-- 60_exceptions.md §5 (R320), 10_state.md §7 (R50, R54): the level of `irq`, the derived fields, the fields a host read of
`STATUS` shows, and what a write to it clears. -/
def Obligations.StatusAndInterrupt : Prop :=
  ∀ s : State,
    s.irq = ((s.faultV && s.fie) || (s.ipempty && s.die && s.configured)) ∧
    (s.ipempty = true ↔ ∀ g, s.inplayAt g = false) ∧
    (s.dsum = 0 ↔ ∀ n, n < s.vcount.toNat → s.doneAt n = false) ∧
    (s.dsum = 2 ↔ 0 < s.vcount.toNat ∧ ∀ n, n < s.vcount.toNat → s.doneAt n = true) ∧ s.dsum ≤ 2 ∧
    (∃ x, HostReads s 0x010 x ∧
      let st := x.toNat
      st % 2 = s.configured.toNat ∧ st / 2 % 2 = s.faultV.toNat ∧ st / 2 ^ 2 % 2 = s.ge.toNat ∧
      st / 2 ^ 3 % 4 = s.cmp.toNat ∧ st / 2 ^ 5 % 2 = s.valid.toNat ∧ st / 2 ^ 6 % 2 = s.ipempty.toNat ∧
      st / 2 ^ 7 % 4 = s.dsum ∧ st / 2 ^ 9 % 2 = s.dropped.toNat ∧ st / 2 ^ 10 % 2 = s.buserr.toNat ∧
      st / 2 ^ 11 = s.irq.toNat) ∧
    ∀ v : Cell, serve (host8 0x010 v) s =
      .next { s with dropped := s.dropped && !v.getLsbD 9, buserr := s.buserr && !v.getLsbD 10 }

/-! ### Reset and invariants -/

/-- 70_reset_and_hazards.md §1 (R340): the reset input gives every register its reset value, as the host reads it, and `irq`
is low; the values R340 leaves unspecified are no part of it. -/
def Obligations.ResetValues : Prop :=
  ∀ s : State, s.params.Legal → ∀ rest, s.host = .reset :: rest →
    ∃ t, step s = .next t ∧ t.host = rest ∧ t.params = s.params ∧
      (∀ c ∈ [Csr.ctrl, .fault, .faultCmd, .faultLane, .faultSeq, .cmdcnt, .res, .cfgBbp, .cfgFrac, .cfgThresh,
        .cfgVcount, .target, .fmt, .threshMsl, .vcount, .acarry, .mcarry, .rawExp], t.readCsr c = 0) ∧
      t.readCsr .status = 0x40 ∧ t.readCsr .rawSign = 1 ∧ t.readCsr .cap = s.readCsr .cap ∧
      (∀ g, t.inplayAt g = false) ∧ (∀ n, t.doneAt n = false) ∧ (∀ n, t.escAt n = false) ∧ t.irq = false

/-- 10_state.md, 43_orchestrator.md §1, 70_reset_and_hazards.md §1: the state after reset meets the invariant, whatever the
parameters. -/
def Obligations.ResetMeetsInvariant : Prop :=
  (∀ p : Params, p.Legal → (State.resetWith p).Inv) ∧ State.reset.Inv

/-- 10_state.md, 43_orchestrator.md §1, 60_exceptions.md §1: every step, whatever the host does, keeps the invariant: the
sizes of the state's parts, a legal configuration, a legal fault record, the in-play invariant, and `CMP` never 3. -/
def Obligations.StepKeepsInvariant : Prop := ∀ s t : State, s.Inv → step s = .next t → t.Inv

/-- R280: the in-play invariant at every point, and its converse directly after `ORST`, `CONSTRUCT` and `UPDDONE`. -/
def Obligations.InPlayInvariant : Prop :=
  (∀ p, (State.resetWith p).GroupsOk) ∧
  (∀ s t : State, s.Inv → step s = .next t → t.GroupsOk) ∧
  ∀ (i : Instr) (s t : State), s.Inv → (i = .orst ∨ i = .construct ∨ ∃ rep va, i = .upddone rep va) →
    exec i s = .next t → t.faultV = false →
    ∀ g, t.inplayAt g = true ↔ g < t.vcount.toNat / 4 ∧ ∃ j, j < 4 ∧ t.doneAt (4 * g + j) = false

/-- R281: between two `ORST` or `CONSTRUCT` commands a done lane stays done, a group out of play stays out, and only a host
write to the `COUNT` slot changes a done lane's count. -/
def Obligations.DoneIsFinal : Prop :=
  (∀ (i : Instr) (s t : State), i ≠ .orst → i ≠ .construct → exec i s = .next t →
    (∀ n, s.doneAt n = true → t.doneAt n = true) ∧ (∀ g, s.inplayAt g = false → t.inplayAt g = false) ∧
    ∀ n, s.doneAt n = true → t.countAt n = s.countAt n) ∧
  (∀ (o : BitVec 23) (width : Nat) (s t : State), serve (.read o width) s = .next t →
    t.done = s.done ∧ t.inplay = s.inplay ∧ t.count = s.count) ∧
  ∀ (o : BitVec 23) (data : List Byte) (s t : State), o ≠ 0x038 → serve (.write o data) s = .next t →
    t.done = s.done ∧ t.inplay = s.inplay ∧ ∀ n, o.toNat ≠ 0x4000 + 8 * n → t.countAt n = s.countAt n

/-- 43_orchestrator.md §3 (R284), 70_reset_and_hazards.md §5 (R360): a run whose host writes neither `COUNT` nor `TARGET`, and
issues no further `ORST`, `CONSTRUCT` or reset, ends: badly, at a fault, or well, once max(`TARGET`, 1) `UPDDONE` commands have
followed its `ORST`, with every lane done and no count past max(`TARGET`, 1). Every other host access may stand between. The
model's choices: that R360's record of a bad end stands beside R285's `no output` (log entry 20), and that a run in which the host
breaks a duty of R361 (an access of a bad width, say) ends like any other (23). -/
def Obligations.RunsTerminate : Prop :=
  ∀ (s : State) (e : HostEvent) (es : List HostEvent), s.Inv → s.Ready → s.host = e :: es → e.command? = some .orst →
    (∀ m ∈ es, m.LeavesRun) → max s.target.toNat 1 ≤ (es.filter (·.isUpddone)).length →
    (∃ out, s.run = some (.bad out)) ∨
    ∃ out, s.run = some (.well out) ∧ out.count.length = s.vcount.toNat ∧ out.done.length = s.vcount.toNat ∧
      (∀ d ∈ out.done, d = true) ∧ out.dsum = 2 ∧ ∀ c ∈ out.count, c.toNat ≤ max s.target.toNat 1

/-- 70_reset_and_hazards.md §5 (R360), 43_orchestrator.md §3 (R285): a run ends well at the first point at which `IPEMPTY` = 1 after an `UPDDONE`, if no fault
came before, with all lanes done and `DSUM` = 2; it ends badly at the first point at which a fault is recorded, and its counts,
done flags and lanes are those before the faulting command, which has changed none of them. The output R285 names, the counts in
lane order (of k sample points the first k) and `DSUM`, is that of a good end; a run with `FAULT.V` = 1, and one that is reset or
abandoned, has none. A program of scalar commands ends with its last command write: its output is the state right after that move.
The model's choices: that R360's record of a bad end stands beside R285's `no output` (log entry 20), that an `ORST` dropped under
an earlier fault ends its run at once (21), that the counts and done flags of a bad end are those below `VCOUNT` (22), that a run
whose host breaks a duty of R361 ends like any other (23), and which commands count as scalar (19). -/
def Obligations.RunsEndWhereTheSpecSays : Prop :=
  (∀ (s : State) (out : RunOutput), s.Inv → s.run = some (.well out) → ∃ k t u e es,
    stepMany k s = .next t ∧ t.host = e :: es ∧ e.isUpddone = true ∧ step t = .next u ∧ u.EndedWell ∧
    (∀ j v, 0 < j → j ≤ k → stepMany j s = .next v → v.faultV = false) ∧
    (∀ j v w m ms, j < k → stepMany j s = .next v → v.host = m :: ms → m.isUpddone = true → step v = .next w →
      w.ipempty = false) ∧
    out.count = u.count.take u.vcount.toNat ∧ out.done = u.done.take u.vcount.toNat ∧ out.lanes = u.vregs ∧
    out.acarry = u.acarry ∧ out.mcarry = u.mcarry ∧ 4 ≤ out.count.length ∧ out.done.length = out.count.length ∧
    (∀ d ∈ out.done, d = true) ∧ out.dsum = 2 ∧
    ∃ o, s.protocolOutput = some o ∧ o.dsum = 2 ∧ o.count.length = u.vcount.toNat ∧
      (∀ n, n < u.vcount.toNat → o.count[n]? = some (u.countAt n)) ∧
      ∀ points, points ≤ u.vcount.toNat → o.points points = u.count.take points) ∧
  (∀ (s : State) (out : BadOutput), s.Inv → s.run = some (.bad out) → ∃ k t u,
    stepMany k s = .next t ∧ step t = .next u ∧ u.faultV = true ∧
    (∀ j v, 0 < j → j ≤ k → stepMany j s = .next v → v.faultV = false) ∧
    (∀ j v w m ms, j < k → stepMany j s = .next v → v.host = m :: ms → m.isUpddone = true → step v = .next w →
      w.ipempty = false) ∧
    1 ≤ out.fault.cause.toNat ∧ out.fault.cause.toNat ≤ 10 ∧
    out.fault = { cause := u.faultCause, cmd := u.faultCmd, lane := u.faultLane, seq := u.faultSeq } ∧
    out.count = t.count.take t.vcount.toNat ∧ out.done = t.done.take t.vcount.toNat ∧ out.lanes = t.vregs ∧
    u.count = t.count ∧ u.done = t.done ∧ u.vregs = t.vregs ∧ s.protocolOutput = none) ∧
  (∀ s : State, s.run = some .reset ∨ s.run = some .abandoned → s.protocolOutput = none) ∧
  ∀ s : State, (∀ e ∈ s.host, e ≠ .reset ∧ ∀ i, e.command? = some i → isScalarCommand i = true) →
    (∃ e ∈ s.host, e.commandWord? ≠ none) →
    ∃ k v e es t, stepMany k s = .next v ∧ v.host = e :: es ∧ e.commandWord? ≠ none ∧ step v = .next t ∧
      s.scalarProgramOutput = some t ∧ ∀ m ∈ es, m.commandWord? = none

/-- R254: a vector command other than `VINS` changes no cell and no sign of a lane that is done, out of play or beyond
`VCOUNT` (and no other command but `CONSTRUCT` does). -/
def Obligations.RetiredLanesFrozen : Prop :=
  ∀ (i : Instr) (s t : State), i ≠ .construct → (∀ vd sa lane, i ≠ .vins vd sa lane) → exec i s = .next t →
    ∀ n, s.doneAt n = true ∨ s.inplayAt (n / 4) = false ∨ s.vcount.toNat ≤ n →
      ∀ v, t.laneAt v n = s.laneAt v n

/-- R45: each flag has one writer, `CONSTRUCT` clears all four, and no command reads one. -/
def Obligations.FlagsHaveOneWriter : Prop :=
  (∀ (i : Instr) (s t : State), i ≠ .construct → exec i s = .next t →
    ((∀ rep sa, i ≠ .cmpt rep sa) → t.ge = s.ge) ∧ ((∀ sa sb, i ≠ .cmpm sa sb) → t.cmp = s.cmp) ∧
    ((∀ rep sa, i ≠ .chk rep sa) → t.valid = s.valid) ∧
    ((∀ sa, i ≠ .limblen sa ∧ i ≠ .tzlimb sa) → t.res = s.res)) ∧
  (∀ s t : State, s.faultV = false → exec .construct s = .next t → t.faultV = false →
    t.ge = false ∧ t.cmp = 0 ∧ t.valid = false ∧ t.res = 0) ∧
  ∀ (i : Instr) (s t : State) (ge valid : Bool) (cmp : BitVec 2) (res : Word), exec i s = .next t →
    ∃ u, exec i { s with ge := ge, cmp := cmp, valid := valid, res := res } = .next u ∧
      u = { t with ge := u.ge, cmp := u.cmp, valid := u.valid, res := u.res }

/-- 10_state.md §7 (R63), 60_exceptions.md §6 (R325): no command reads a diagnostic counter, `CMDCNT` or an interrupt enable:
the rest of the state comes out the same whatever they hold (`FAULT_SEQ`, the `CMDCNT` a fault saves, apart). -/
def Obligations.CountersAreAdvisory : Prop :=
  ∀ (i : Instr) (s t : State) (a m c : Word) (fie die : Bool), exec i s = .next t →
    ∃ u, exec i { s with acarry := a, mcarry := m, cmdcnt := c, fie := fie, die := die } = .next u ∧
      u = { t with
        acarry := u.acarry, mcarry := u.mcarry, cmdcnt := u.cmdcnt, faultSeq := u.faultSeq, fie := fie, die := die }

/-- R353: the `CFG_*` registers have no effect until the next `CONSTRUCT`, which alone of the commands
writes `FMT`, `THRESH_MSL` and `VCOUNT`. -/
def Obligations.ConfigurationLatch : Prop :=
  ∀ (i : Instr) (s t : State), i ≠ .construct → exec i s = .next t →
    (∀ (b : BitVec 8) (f n : BitVec 16) (th : Word),
      exec i { s with cfgBbp := b, cfgFrac := f, cfgThresh := th, cfgVcount := n } =
        .next { t with cfgBbp := b, cfgFrac := f, cfgThresh := th, cfgVcount := n }) ∧
    (∀ v : Cell, serve (host8 0x050 v) s = .next { s with cfgBbp := v.setWidth 8 } ∧
      serve (host8 0x058 v) s = .next { s with cfgFrac := v.setWidth 16 } ∧
      serve (host8 0x060 v) s = .next { s with cfgThresh := v.setWidth 32 } ∧
      serve (host8 0x068 v) s = .next { s with cfgVcount := v.setWidth 16 }) ∧
    t.fmtI = s.fmtI ∧ t.fmtF = s.fmtF ∧ t.fmtL = s.fmtL ∧ t.fmtT = s.fmtT ∧ t.threshMsl = s.threshMsl ∧
    t.vcount = s.vcount

/-- R32: no command reads a cell k ≥ L, and none but `CONSTRUCT`, which zeroes every cell, writes one. -/
def Obligations.CellsBeyondL : Prop :=
  (∀ (i : Instr) (s t : State), i ≠ .construct → exec i s = .next t → ∀ k, s.format.l ≤ k →
    (∀ r, (t.sregAt r).cell k = (s.sregAt r).cell k) ∧ ∀ v n, (t.laneAt v n).cell k = (s.laneAt v n).cell k) ∧
  (∀ (i : Instr) (s t s' : State), s.Inv → AgreeUpToL s s' → exec i s = .next t →
    ∃ t', exec i s' = .next t' ∧ AgreeUpToL t t') ∧
  (∀ s t : State, s.faultV = false → exec .construct s = .next t → t.faultV = false → ∀ k,
    (∀ r, (t.sregAt r).cell k = 0) ∧ ∀ v n, (t.laneAt v n).cell k = 0)

/-! ### Numbers -/

/-- 40_format_codec.md §2 (R147 to R149, R158): the encoding of a value in range holds that value, in both representations; a
Number is determined by the value it holds; and both zeros are one Number. -/
def Obligations.EncodingsHoldTheirValue : Prop :=
  ∀ f : Format, f.Legal →
    (∀ (rep : Rep) (x : Int), inrangeRep f rep x = true → HoldsNumber f rep (encRep f rep x) x) ∧
    (∀ (rep : Rep) (x : Int) (a b : Number), HoldsNumber f rep a x → HoldsNumber f rep b x → SameNumber f.l a b) ∧
    ∀ k, (encSM f 0).cell k = 0 ∧ (enc2C f 0).cell k = 0 ∧ (encSM f 0).sign = true ∧ (enc2C f 0).sign = true

/-- R146: the representable ranges, and that every operand lies in its range. -/
def Obligations.OperandsInRange : Prop :=
  ∀ f : Format, f.Legal →
    (∀ x, inrangeSM f x = true ↔ -(2 : Int) ^ f.t < x ∧ x < 2 ^ f.t) ∧
    (∀ x, inrange2C f x = true ↔ -(2 : Int) ^ (f.t - 1) ≤ x ∧ x < 2 ^ (f.t - 1)) ∧
    (∀ a, validSM f a = true → inrangeSM f (xSM f a) = true) ∧ ∀ a, inrange2C f (x2C f a) = true

/-- 40_format_codec.md §3 (R150 to R152): the bins of a multiplication, a square and a small multiplication, and the digits
`sum_partials` makes of them, have the exact product as their weighted sum; every digit is below 2^B; and `mcarries` is the
number of places but the last that the bins up to there carry out of. -/
def Obligations.BinsSumToTheProduct : Prop :=
  ∀ (f : Format) (a c m : Nat), f.Legal → a < 2 ^ f.t → c < 2 ^ f.t → m < 2 ^ f.b →
    ∀ e ∈ [(binsMul f a c, a * c, 2 * f.l), (binsSqr f a, a * a, 2 * f.l), (binsMuli f a m, a * m, f.l + 1)],
      e.1.length = e.2.2 ∧ weightedSum f.b e.1 = e.2.1 ∧ (sumPartials f.b e.1).digits.length = e.2.2 ∧
      weightedSum f.b (sumPartials f.b e.1).digits = e.2.1 ∧ (∀ d ∈ (sumPartials f.b e.1).digits, d < 2 ^ f.b) ∧
      (sumPartials f.b e.1).mcarries = ((List.range (e.2.2 - 1)).filter fun k =>
        decide (2 ^ (f.b * (k + 1)) ≤ sumBelow (k + 1) fun j => e.1.getD j 0 * 2 ^ (f.b * j))).length

/-- R154: shift-and-trim as limbs. -/
def Obligations.ShiftAndTrimAsLimbs : Prop :=
  ∀ (f : Format) (r : List Nat), f.Legal → r.length = 2 * f.l → (∀ d ∈ r, d < 2 ^ f.b) →
    (f.i ≤ f.b →
      (∀ k, k < f.l → natDigit f.b (shiftAndTrim f r) k =
        (r.getD (f.l + k) 0 * 2 ^ f.i + r.getD (f.l + k - 1) 0 / 2 ^ (f.b - f.i)) % 2 ^ f.b) ∧
      weightedSum f.b r / 2 ^ (f.t + f.f) = r.getD (2 * f.l - 1) 0 / 2 ^ (f.b - f.i)) ∧
    (f.i = f.b → ∀ k, k < f.l → natDigit f.b (shiftAndTrim f r) k = r.getD (f.l + k - 1) 0) ∧
    (f.b < f.i → f.b = 31 ∧ f.i = 32)

/-- R162: what the compare of the most significant limb says about the value, for a threshold `CONSTRUCT` accepts. -/
def Obligations.ThresholdExactness : Prop :=
  ∀ (f : Format) (t : Nat), f.Legal → t < 2 ^ f.i →
    let msl := thresholdMsl f.b f.l f.f t
    (f.i ≤ f.b → 2 ^ (f.b * (f.l - 1)) ∣ t * 2 ^ f.f ∧ ∀ (rep : Rep) (a : Number), validRep f rep a = true →
      0 ≤ xRep f rep a → (geThreshold f msl rep a = true ↔ ((t * 2 ^ f.f : Nat) : Int) ≤ xRep f rep a)) ∧
    (f.b < f.i → msl = t / 2 ∧
      (∀ (rep : Rep) (a : Number), validRep f rep a = true → 0 ≤ xRep f rep a →
        (geThreshold f msl rep a = true ↔ ((2 * (t / 2) * 2 ^ f.f : Nat) : Int) ≤ xRep f rep a)) ∧
      (t % 2 = 1 → ∃ a, validSM f a = true ∧ 0 ≤ xSM f a ∧ geThreshold f msl .sm a = true ∧
        xSM f a < ((t * 2 ^ f.f : Nat) : Int))) ∧
    (∀ a, validSM f a = true → xSM f a < 0 →
      (geThreshold f msl .sm a = true ↔ msl ≤ (xSM f a).natAbs / 2 ^ (f.b * (f.l - 1)))) ∧
    (∀ a, valid2C f a = true → x2C f a < 0 →
      (geThreshold f msl .tc a = true ↔ msl ≤ (x2C f a + 2 ^ (f.t - 1)).toNat / 2 ^ (f.b * (f.l - 1)))) ∧
    (2 ^ (f.i - 1) ≤ t → 2 ^ (f.b - 1) ≤ msl ∧ ∀ a, geThreshold f msl .tc a = false)

/-! ### Scalar commands -/

/-- 41_scalar_engine.md §2 (R201): `MUL` writes the truncated product and counts its carries, or faults with
`MUL_OVERFLOW`. -/
def Obligations.MulTruncatedProduct : Prop :=
  ∀ s : State, s.Inv → s.Ready → ∀ (rep : Rep) (sd sa sb : SReg),
    validRep s.format rep (s.sregAt sa) = true → validRep s.format rep (s.sregAt sb) = true →
    let xa := xRep s.format rep (s.sregAt sa)
    let xb := xRep s.format rep (s.sregAt sb)
    let x := truncatedProduct s.format xa xb
    (inrangeRep s.format rep x = true → ∃ t, exec (.mul rep sd sa sb) s = .next t ∧
      t = { s with
        cmdcnt := s.cmdcnt + 1, sregs := t.sregs,
        mcarry := s.mcarry + BitVec.ofNat 32 (if xa = 0 ∨ xb = 0 then 0 else
          (sumPartials s.format.b (binsMul s.format xa.natAbs xb.natAbs)).mcarries) } ∧
      SregHolds s t sd rep x) ∧
    (inrangeRep s.format rep x = false → CommandFaults (.mul rep sd sa sb) s 0x08 0xFFFFFFFF)

/-- 41_scalar_engine.md §2 (R202): `SQR` writes the truncated square, never negative, and counts its carries, or faults with
`MUL_OVERFLOW`. -/
def Obligations.SqrTruncatedSquare : Prop :=
  ∀ s : State, s.Inv → s.Ready → ∀ (rep : Rep) (sd sa : SReg), validRep s.format rep (s.sregAt sa) = true →
    let xa := xRep s.format rep (s.sregAt sa)
    let x : Int := (xa.natAbs ^ 2 / 2 ^ s.format.f : Nat)
    (inrangeRep s.format rep x = true → ∃ t, exec (.sqr rep sd sa) s = .next t ∧
      t = { s with
        cmdcnt := s.cmdcnt + 1, sregs := t.sregs,
        mcarry := s.mcarry + BitVec.ofNat 32 (if xa = 0 then 0 else
          (sumPartials s.format.b (binsSqr s.format xa.natAbs)).mcarries) } ∧
      SregHolds s t sd rep x) ∧
    (inrangeRep s.format rep x = false → CommandFaults (.sqr rep sd sa) s 0x08 0xFFFFFFFF)

/-- 41_scalar_engine.md §2 (R203): `MULI` writes the exact product, or faults with `MUL_OVERFLOW`, from the static check or,
in 2C only, from the range check. -/
def Obligations.MuliExactProduct : Prop :=
  ∀ s : State, s.Inv → s.Ready → ∀ (rep : Rep) (sd sa : SReg) (k : Int), SImmOk k →
    validRep s.format rep (s.sregAt sa) = true →
    let xa := xRep s.format rep (s.sregAt sa)
    (muliAdmits s.format xa k → inrangeRep s.format rep (xa * k) = true → ∃ t, exec (.muli rep sd sa k) s = .next t ∧
      t = { s with
        cmdcnt := s.cmdcnt + 1, sregs := t.sregs,
        mcarry := s.mcarry + BitVec.ofNat 32 (if xa = 0 ∨ k = 0 then 0 else
          (sumPartials s.format.b (binsMuli s.format xa.natAbs k.natAbs)).mcarries) } ∧
      SregHolds s t sd rep (xa * k)) ∧
    (¬ muliAdmits s.format xa k → CommandFaults (.muli rep sd sa k) s 0x08 0xFFFFFFFF) ∧
    (muliAdmits s.format xa k → inrangeRep s.format rep (xa * k) = false →
      rep = .tc ∧ CommandFaults (.muli rep sd sa k) s 0x08 0xFFFFFFFF)

/-- 41_scalar_engine.md §3 (R204, R205): `ADD` and `SUB` write the exact sum or difference, or the clamp with its sign, and
then `ACARRY` counts. -/
def Obligations.AddSubSaturate : Prop :=
  ∀ s : State, s.Inv → s.Ready → ∀ (rep : Rep) (sd sa sb : SReg),
    validRep s.format rep (s.sregAt sa) = true → validRep s.format rep (s.sregAt sb) = true →
    let xa := xRep s.format rep (s.sregAt sa)
    let xb := xRep s.format rep (s.sregAt sb)
    ∀ e ∈ [(Instr.add rep sd sa sb, xa + xb), (.sub rep sd sa sb, xa - xb)], ∃ t, exec e.1 s = .next t ∧
      t = { s with
        cmdcnt := s.cmdcnt + 1, sregs := t.sregs,
        acarry := if inrangeRep s.format rep e.2 = true then s.acarry else s.acarry + 1 } ∧
      SregHolds s t sd rep (saturated s.format rep e.2)

/-- 41_scalar_engine.md §4, §6 (R206 to R208, R211): `LDZ`, `LDMAX`, `LDI`, and `MOV`, which copies cells k < L and the sign,
valid or not. -/
def Obligations.LoadsAndMovWriteTheDestination : Prop :=
  ∀ s : State, s.Inv → s.Ready → ∀ (rep : Rep) (sd sa : SReg) (k : Int),
    let fits := if rep = .sm then (k.natAbs : Int) < 2 ^ s.format.i
      else -(2 : Int) ^ (s.format.i - 1) ≤ k ∧ k < 2 ^ (s.format.i - 1)
    (∃ t, exec (.ldz sd) s = .next t ∧ t = { s with cmdcnt := s.cmdcnt + 1, sregs := t.sregs } ∧
      SregHolds s t sd .sm 0 ∧ SregHolds s t sd .tc 0) ∧
    (∃ t, exec (.ldmax rep sd) s = .next t ∧ t = { s with cmdcnt := s.cmdcnt + 1, sregs := t.sregs } ∧
      SregHolds s t sd rep (maxInteger s.format rep)) ∧
    (fits → ∃ t, exec (.ldi rep sd k) s = .next t ∧ t = { s with cmdcnt := s.cmdcnt + 1, sregs := t.sregs } ∧
      SregHolds s t sd rep (k * 2 ^ s.format.f)) ∧
    (¬ fits → CommandFaults (.ldi rep sd k) s 0x0A 0xFFFFFFFF) ∧
    ∃ t, exec (.mov sd sa) s = .next t ∧ t = { s with cmdcnt := s.cmdcnt + 1, sregs := t.sregs } ∧
      SregCopies s t sd (s.sregAt sa)

/-- 41_scalar_engine.md §5 (R209, R210): `CMPT` writes `GE` from the top digit alone; `CMPM` writes `CMP` as a scan from cell L−1
down to cell 0 finds at the first unequal cell, and reads no sign. -/
def Obligations.ComparesWriteTheirFlag : Prop :=
  ∀ s : State, s.Inv → s.Ready → ∀ sa : SReg,
    (∀ rep : Rep, validRep s.format rep (s.sregAt sa) = true →
      let top := digit s.format (s.sregAt sa) (s.format.l - 1)
      exec (.cmpt rep sa) s = .next { s with
        cmdcnt := s.cmdcnt + 1,
        ge := decide (s.threshMsl.toNat ≤ if rep = .sm then top else top % 2 ^ (s.format.b - 1)) }) ∧
    ∀ sb : SReg, validSM s.format (s.sregAt sa) = true → validSM s.format (s.sregAt sb) = true →
      let a := fun k => ((s.sregAt sa).cell k).toNat
      let b := fun k => ((s.sregAt sb).cell k).toNat
      let equalAbove := fun k => ∀ j, k < j → j < s.format.l → a j = b j
      let result := fun c : BitVec 2 => exec (.cmpm sa sb) s = .next { s with cmdcnt := s.cmdcnt + 1, cmp := c }
      ((∀ k, k < s.format.l → a k = b k) → result 0) ∧
      (∀ k, k < s.format.l → equalAbove k → b k < a k → result 1) ∧
      ∀ k, k < s.format.l → equalAbove k → a k < b k → result 2

/-- 41_scalar_engine.md §7 (R212): `SQR` and `MUL` of a register by itself write the same Number and fault in the same cases;
only `MCARRY` and the recorded command word may differ. -/
def Obligations.SquareIsMultiply : Prop :=
  ∀ s : State, s.Inv → ∀ (rep : Rep) (sd sa : SReg), ∃ t u,
    exec (.sqr rep sd sa) s = .next t ∧ exec (.mul rep sd sa sa) s = .next u ∧
      u = { t with mcarry := u.mcarry, faultCmd := u.faultCmd }

/-- R215: `MUL` and `ADD` are commutative, carries and faults included; only the recorded command word may differ. -/
def Obligations.Commutativity : Prop :=
  ∀ (s : State) (rep : Rep) (sd sa sb : SReg),
    (∃ t u, exec (.mul rep sd sa sb) s = .next t ∧ exec (.mul rep sd sb sa) s = .next u ∧
      u = { t with faultCmd := u.faultCmd }) ∧
    ∃ t u, exec (.add rep sd sa sb) s = .next t ∧ exec (.add rep sd sb sa) s = .next u ∧
      u = { t with faultCmd := u.faultCmd }

/-- 41_scalar_engine.md §7 (R213): after an `ADD` that does not saturate and does not overwrite `sb`, `SUB` gives back the
Number in `sa`. -/
def Obligations.SubUndoesAdd : Prop :=
  ∀ s : State, s.Inv → s.Ready → ∀ (rep : Rep) (sc sd sa sb : SReg), sc ≠ sb →
    validRep s.format rep (s.sregAt sa) = true → validRep s.format rep (s.sregAt sb) = true →
    inrangeRep s.format rep (xRep s.format rep (s.sregAt sa) + xRep s.format rep (s.sregAt sb)) = true →
    ∃ t u, exec (.add rep sc sa sb) s = .next t ∧ exec (.sub rep sd sc sb) t = .next u ∧
      HoldsNumber s.format rep (u.sregAt sd) (xRep s.format rep (s.sregAt sa)) ∧
      ∀ k, k < s.format.l → (u.sregAt sd).cell k = (s.sregAt sa).cell k

/-! ### Codec commands -/

/-- 40_format_codec.md §5 (R170, R171): `TOTC` and `FROMTC` keep the value; `TOTC` faults with `CONV_OVERFLOW` outside the 2C
range, and `FROMTC` after `TOTC` gives the value back. -/
def Obligations.ConversionsKeepTheValue : Prop :=
  ∀ s : State, s.Inv → s.Ready → ∀ sd sa : SReg,
    (validSM s.format (s.sregAt sa) = true →
      let x := xSM s.format (s.sregAt sa)
      (inrange2C s.format x = true → ∃ t, exec (.totc sd sa) s = .next t ∧
        t = { s with cmdcnt := s.cmdcnt + 1, sregs := t.sregs } ∧ SregHolds s t sd .tc x ∧
        ∀ se, ∃ u, exec (.fromtc se sd) t = .next u ∧ SregHolds t u se .sm x) ∧
      (inrange2C s.format x = false → CommandFaults (.totc sd sa) s 0x09 0xFFFFFFFF)) ∧
    (valid2C s.format (s.sregAt sa) = true → ∃ t, exec (.fromtc sd sa) s = .next t ∧
      t = { s with cmdcnt := s.cmdcnt + 1, sregs := t.sregs } ∧ SregHolds s t sd .sm (x2C s.format (s.sregAt sa)))

/-- 40_format_codec.md §5 (R172): `SPLIT` writes the staged integer, shifted exactly and truncated toward zero, or faults with
`CONV_RANGE`. -/
def Obligations.SplitAlignsTheStagedValue : Prop :=
  ∀ s : State, s.Inv → s.Ready → ∀ (rep : Rep) (sd : SReg),
    let m : Int := alignedMagnitude (sumBelow 64 fun w => (s.raw.toList.getD w 0).toNat * 2 ^ (64 * w))
      (s.rawExp.toInt + s.format.f)
    let x := if s.rawSign = true then m else -m
    (inrangeRep s.format rep x = true → ∃ t, exec (.split rep sd) s = .next t ∧
      t = { s with cmdcnt := s.cmdcnt + 1, sregs := t.sregs } ∧ SregHolds s t sd rep x) ∧
    (inrangeRep s.format rep x = false → CommandFaults (.split rep sd) s 0x0A 0xFFFFFFFF)

/-- 40_format_codec.md §5 (R173): `JOIN` stages the scaled integer with exponent −F and its sign, and `SPLIT` after it returns
the same value. -/
def Obligations.JoinStagesTheValue : Prop :=
  ∀ s : State, s.Inv → s.Ready → ∀ (rep : Rep) (sa : SReg), validRep s.format rep (s.sregAt sa) = true →
    let x := xRep s.format rep (s.sregAt sa)
    ∃ t, exec (.join rep sa) s = .next t ∧
      t = { s with cmdcnt := s.cmdcnt + 1, raw := t.raw, rawExp := t.rawExp, rawSign := decide (0 ≤ x) } ∧
      (∀ w : Fin 64, t.raw[w].toNat = x.natAbs / 2 ^ (64 * w.val) % 2 ^ 64) ∧ t.rawValue = x.natAbs ∧
      t.rawExp.toInt = -(s.format.f : Int) ∧
      ∀ sd, ∃ u, exec (.split rep sd) t = .next u ∧ SregHolds t u sd rep x

/-- 40_format_codec.md §5 (R174): `CHK` answers whether every cell is a digit (SM), or the lower cells are and the top cell is
a digit sign-extended from bit B−1 (2C). -/
def Obligations.ChkAnswersValidity : Prop :=
  ∀ s : State, s.Inv → s.Ready → ∀ (sa : SReg) (v : Bool),
    let c := fun k => ((s.sregAt sa).cell k).toNat
    let top := c (s.format.l - 1)
    ((v = true ↔ ∀ k, k < s.format.l → c k < 2 ^ s.format.b) →
      exec (.chk .sm sa) s = .next { s with cmdcnt := s.cmdcnt + 1, valid := v }) ∧
    ((v = true ↔ (∀ k, k + 1 < s.format.l → c k < 2 ^ s.format.b) ∧
        (top < 2 ^ (s.format.b - 1) ∨ 2 ^ 64 - 2 ^ (s.format.b - 1) ≤ top)) →
      exec (.chk .tc sa) s = .next { s with cmdcnt := s.cmdcnt + 1, valid := v })

/-- 40_format_codec.md §5 (R175, R176): `LIMBLEN` counts the limbs up to the highest nonzero cell, `TZLIMB` the zero cells
below the lowest nonzero one, over cells k < L. -/
def Obligations.LimbQueriesCountZeroLimbs : Prop :=
  ∀ s : State, s.Ready → ∀ (sa : SReg) (n : Nat), n ≤ s.format.l →
    let c := (s.sregAt sa).cell
    let result := fun i => exec i s = .next { s with cmdcnt := s.cmdcnt + 1, res := BitVec.ofNat 32 n }
    ((∀ k, n ≤ k → k < s.format.l → c k = 0) → (0 < n → c (n - 1) ≠ 0) → result (.limblen sa)) ∧
    ((∀ k, k < n → c k = 0) → (n < s.format.l → c n ≠ 0) → result (.tzlimb sa))

/-! ### Control commands -/

/-- 40_format_codec.md §4 (R159 to R161), 43_orchestrator.md §2 (R282): the checks of `CONSTRUCT` in their order, and all that
a successful one writes. -/
def Obligations.ConstructChecksAndConfigures : Prop :=
  ∀ s : State, s.Inv → s.faultV = false → ∀ (i fq th n b t l : Nat),
    i = s.cfgBbp.toNat → fq = s.cfgFrac.toNat → th = s.cfgThresh.toNat → n = s.cfgVcount.toNat →
    b = s.params.limbBits → t = l * b → i + fq ≤ t → t < i + fq + b →
    let badFormat := i = 0 ∨ 32 < i ∨ s.params.lMax < l
    let badThreshold := 2 ^ i - 1 < th
    let badCount := n = 0 ∨ n % 4 ≠ 0 ∨ s.params.vcap < n
    (badFormat → CommandFaults .construct s 0x03 0xFFFFFFFF) ∧
    (¬ badFormat → badThreshold → CommandFaults .construct s 0x04 0xFFFFFFFF) ∧
    (¬ badFormat → ¬ badThreshold → badCount → CommandFaults .construct s 0x05 0xFFFFFFFF) ∧
    (¬ badFormat → ¬ badThreshold → ¬ badCount → ∃ u, exec .construct s = .next u ∧
      u = { s with
        cmdcnt := s.cmdcnt + 1, fmtI := u.fmtI, fmtF := u.fmtF, fmtL := u.fmtL, fmtT := u.fmtT,
        threshMsl := u.threshMsl, vcount := u.vcount, sregs := u.sregs, vregs := u.vregs, acarry := 0, mcarry := 0,
        ge := false, cmp := 0, valid := false, res := 0, inplay := u.inplay, done := u.done, esc := u.esc,
        count := u.count, configured := true } ∧
      u.format = { b := b, i := i, f := t - i, l := l, t := t } ∧
      u.threshMsl.toNat = th * 2 ^ (t - i) / 2 ^ (b * (l - 1)) ∧ u.vcount.toNat = n ∧
      (∀ r k, (u.sregAt r).cell k = 0 ∧ (u.sregAt r).sign = true) ∧
      (∀ v m k, (u.laneAt v m).cell k = 0 ∧ (m < s.params.vcap → (u.laneAt v m).sign = true)) ∧
      (∀ g, u.inplayAt g = decide (g < n / 4)) ∧
      ∀ m, u.doneAt m = false ∧ u.escAt m = false ∧ u.countAt m = 0)

/-- 43_orchestrator.md §2 (R282): `ORST` puts every group below `VCOUNT`/4 in play and clears the lanes' flags and counts. -/
def Obligations.OrstStartsARun : Prop :=
  ∀ s : State, s.Inv → s.Ready → ∃ t, exec .orst s = .next t ∧
    t = { s with
      cmdcnt := s.cmdcnt + 1, inplay := t.inplay, done := t.done, esc := t.esc, count := t.count } ∧
    (∀ g, t.inplayAt g = decide (g < s.vcount.toNat / 4)) ∧
    (∀ n, t.doneAt n = false ∧ t.escAt n = false ∧ t.countAt n = 0) ∧ t.ipempty = false ∧ t.dsum = 0

/-- 43_orchestrator.md §2 (R283): `UPDDONE` lane by lane: escape flag, count, done flag; then the groups whose lanes are all
done leave the in-play set. -/
def Obligations.UpddoneLaneByLane : Prop :=
  ∀ s : State, s.Inv → s.Ready → ∀ (rep : Rep) (va : VReg),
    (∀ n, s.isActive n = true → validRep s.format rep (s.laneAt va n) = true) →
    ∃ t, exec (.upddone rep va) s = .next t ∧
      t = { s with
        cmdcnt := s.cmdcnt + 1, inplay := t.inplay, done := t.done, esc := t.esc, count := t.count } ∧
      (∀ n, s.isActive n = true →
        t.escAt n = s.geThr rep (s.laneAt va n) ∧ t.countAt n = s.countAt n + 1 ∧
        (t.doneAt n = true ↔ t.escAt n = true ∨ s.target.toNat ≤ (t.countAt n).toNat)) ∧
      (∀ n, s.isActive n = false →
        t.escAt n = s.escAt n ∧ t.countAt n = s.countAt n ∧ t.doneAt n = s.doneAt n) ∧
      ∀ g, t.inplayAt g = true ↔ s.inplayAt g = true ∧ ∃ j, j < 4 ∧ t.doneAt (4 * g + j) = false

/-! ### Vector commands -/

/-- 42_vector_engine.md §2 (R242 to R244): `VMOV`, `VLDZ` and `VBCAST` write every active lane and no other. -/
def Obligations.VectorMovesWriteActiveLanes : Prop :=
  ∀ s : State, s.Inv → s.Ready → ∀ (vd va : VReg) (sa : SReg),
    (∃ t, exec (.vmov vd va) s = .next t ∧ t = { s with cmdcnt := s.cmdcnt + 1, vregs := t.vregs } ∧
      LanesFrame s t vd s.isActive ∧
      ∀ n, s.isActive n = true → SameNumber s.format.l (t.laneAt vd n) (s.laneAt va n)) ∧
    (∃ t, exec (.vldz vd) s = .next t ∧ t = { s with cmdcnt := s.cmdcnt + 1, vregs := t.vregs } ∧
      LanesFrame s t vd s.isActive ∧
      ∀ n, s.isActive n = true →
        HoldsNumber s.format .sm (t.laneAt vd n) 0 ∧ HoldsNumber s.format .tc (t.laneAt vd n) 0) ∧
    ∃ t, exec (.vbcast vd sa) s = .next t ∧ t = { s with cmdcnt := s.cmdcnt + 1, vregs := t.vregs } ∧
      LanesFrame s t vd s.isActive ∧
      ∀ n, s.isActive n = true → SameNumber s.format.l (t.laneAt vd n) (s.sregAt sa)

/-- 42_vector_engine.md §2 (R245, R246): `VEXT` and `VINS` move one lane below `VCOUNT`, active or not, and fault with
`LANE_RANGE` at any other. -/
def Obligations.LaneMovesCopyOneLane : Prop :=
  ∀ s : State, s.Inv → s.Ready → ∀ (sr : SReg) (v : VReg) (lane : Nat), LaneImmOk lane →
    (lane < s.vcount.toNat →
      (∃ t, exec (.vext sr v lane) s = .next t ∧ t = { s with cmdcnt := s.cmdcnt + 1, sregs := t.sregs } ∧
        SregCopies s t sr (s.laneAt v lane)) ∧
      ∃ t, exec (.vins v sr lane) s = .next t ∧ t = { s with cmdcnt := s.cmdcnt + 1, vregs := t.vregs } ∧
        LanesFrame s t v (· == lane) ∧ SameNumber s.format.l (t.laneAt v lane) (s.sregAt sr)) ∧
    (s.vcount.toNat ≤ lane →
      CommandFaults (.vext sr v lane) s 0x06 (BitVec.ofNat 32 lane) ∧
      CommandFaults (.vins v sr lane) s 0x06 (BitVec.ofNat 32 lane))

/-- 42_vector_engine.md §4 (R250, R251): `VADD` and `VSUB` write every active lane's sum or difference, saturated; a lane that
saturates is done at once and counted in `ACARRY`. -/
def Obligations.VectorAddSubSaturate : Prop :=
  ∀ s : State, s.Inv → s.Ready → ∀ (rep : Rep) (vd va vb : VReg),
    (∀ n, s.isActive n = true →
      validRep s.format rep (s.laneAt va n) = true ∧ validRep s.format rep (s.laneAt vb n) = true) →
    let xa := fun n => xRep s.format rep (s.laneAt va n)
    let xb := fun n => xRep s.format rep (s.laneAt vb n)
    ∀ e ∈ [(Instr.vadd rep vd va vb, fun n => xa n + xb n), (.vsub rep vd va vb, fun n => xa n - xb n)],
      ∃ t, exec e.1 s = .next t ∧
        t = { s with
          cmdcnt := s.cmdcnt + 1, vregs := t.vregs, done := t.done,
          acarry := s.acarry + BitVec.ofNat 32
            (s.activeLanes.filter fun n => !inrangeRep s.format rep (e.2 n)).length } ∧
        LanesFrame s t vd s.isActive ∧
        (∀ n, s.isActive n = true →
          HoldsNumber s.format rep (t.laneAt vd n) (saturated s.format rep (e.2 n))) ∧
        ∀ n, t.doneAt n = (s.doneAt n || (s.isActive n && !inrangeRep s.format rep (e.2 n)))

/-- 42_vector_engine.md §3 (R247 to R249): `VMUL`, `VSQR` and `VMULI` write every active lane's product, and `MCARRY` counts
the lanes' carries, when no active lane fails. -/
def Obligations.VectorProductsWriteActiveLanes : Prop :=
  ∀ s : State, s.Inv → s.Ready → ∀ (rep : Rep) (vd va vb : VReg) (k : Int), SImmOk k →
    let f := s.format
    let xa := fun n => xRep f rep (s.laneAt va n)
    let xb := fun n => xRep f rep (s.laneAt vb n)
    let writes := fun (i : Instr) (x : Nat → Int) (carries : Nat → Nat) => ∃ t, exec i s = .next t ∧
      t = { s with
        cmdcnt := s.cmdcnt + 1, vregs := t.vregs,
        mcarry := s.mcarry + BitVec.ofNat 32 (s.activeLanes.map carries).sum } ∧
      LanesFrame s t vd s.isActive ∧ ∀ n, s.isActive n = true → HoldsNumber f rep (t.laneAt vd n) (x n)
    ((∀ n, s.isActive n = true → validRep f rep (s.laneAt va n) = true ∧ validRep f rep (s.laneAt vb n) = true ∧
        inrangeRep f rep (truncatedProduct f (xa n) (xb n)) = true) →
      writes (.vmul rep vd va vb) (fun n => truncatedProduct f (xa n) (xb n))
        (fun n => if xa n = 0 ∨ xb n = 0 then 0 else
          (sumPartials f.b (binsMul f (xa n).natAbs (xb n).natAbs)).mcarries)) ∧
    ((∀ n, s.isActive n = true → validRep f rep (s.laneAt va n) = true ∧
        inrangeRep f rep (truncatedProduct f (xa n) (xa n)) = true) →
      writes (.vsqr rep vd va) (fun n => truncatedProduct f (xa n) (xa n))
        (fun n => if xa n = 0 then 0 else (sumPartials f.b (binsSqr f (xa n).natAbs)).mcarries)) ∧
    ((∀ n, s.isActive n = true → validRep f rep (s.laneAt va n) = true ∧ muliAdmits f (xa n) k ∧
        inrangeRep f rep (xa n * k) = true) →
      writes (.vmuli rep vd va k) (fun n => xa n * k)
        (fun n => if xa n = 0 ∨ k = 0 then 0 else
          (sumPartials f.b (binsMuli f (xa n).natAbs k.natAbs)).mcarries))

/-- 42_vector_engine.md §5 (R252): `VCMPT` writes the escape flags of the active lanes and no others. -/
def Obligations.VcmptWritesEscapeFlags : Prop :=
  ∀ s : State, s.Inv → s.Ready → ∀ (rep : Rep) (va : VReg),
    (∀ n, s.isActive n = true → validRep s.format rep (s.laneAt va n) = true) →
    ∃ t, exec (.vcmpt rep va) s = .next t ∧ t = { s with cmdcnt := s.cmdcnt + 1, esc := t.esc } ∧
      ∀ n, t.escAt n = if s.isActive n then s.geThr rep (s.laneAt va n) else s.escAt n

/-- 42_vector_engine.md §6 (R253): a vector arithmetic command writes to an active lane what the scalar command of the same
name writes when given that lane's operands, `VCMPT` writes what `CMPT` does, and a vector command faults exactly when one of
those scalar commands would. -/
def Obligations.ScalarVectorAgreement : Prop :=
  ∀ s : State, s.Inv → s.Ready →
    (∀ (i j : Instr) (vd va vb : VReg), scalarForm i = some (vd, j, va, vb) → ∃ t, exec i s = .next t ∧
      (t.faultV = true ↔
        ∃ n u, s.isActive n = true ∧ exec j (s.withLaneInScalars va vb n) = .next u ∧ u.faultV = true) ∧
      (t.faultV = false → ∀ n, s.isActive n = true → ∃ u, exec j (s.withLaneInScalars va vb n) = .next u ∧
        SameNumber s.format.l (t.laneAt vd n) (u.sregAt 2))) ∧
    ∀ (rep : Rep) (va : VReg), ∃ t, exec (.vcmpt rep va) s = .next t ∧
      (t.faultV = true ↔ ∃ n u, s.isActive n = true ∧
        exec (.cmpt rep 0) (s.withLaneInScalars va va n) = .next u ∧ u.faultV = true) ∧
      (t.faultV = false → ∀ n, s.isActive n = true → ∃ u,
        exec (.cmpt rep 0) (s.withLaneInScalars va va n) = .next u ∧ t.escAt n = u.ge)
end

