-- ==== Sys2Proof/Laws/State.lean ====
section
/-! SUPPORT. What each named update of the state leaves as it was, and what it writes: one lemma per field, and per accessor
that reads only fields left alone, each true by definition, so that no later proof unfolds a record update. -/

namespace Sys2Proof.Machine

/-! ### `writeSreg` -/

@[simp] theorem State.writeSreg_params (s : State) (r : SReg) (a : Number) : (s.writeSreg r a).params = s.params := rfl
@[simp] theorem State.writeSreg_sregs (s : State) (r : SReg) (a : Number) : (s.writeSreg r a).sregs = s.sregs.set r ((s.sregAt r).overwrite s.format.l a) := rfl
@[simp] theorem State.writeSreg_vregs (s : State) (r : SReg) (a : Number) : (s.writeSreg r a).vregs = s.vregs := rfl
@[simp] theorem State.writeSreg_inplay (s : State) (r : SReg) (a : Number) : (s.writeSreg r a).inplay = s.inplay := rfl
@[simp] theorem State.writeSreg_done (s : State) (r : SReg) (a : Number) : (s.writeSreg r a).done = s.done := rfl
@[simp] theorem State.writeSreg_esc (s : State) (r : SReg) (a : Number) : (s.writeSreg r a).esc = s.esc := rfl
@[simp] theorem State.writeSreg_count (s : State) (r : SReg) (a : Number) : (s.writeSreg r a).count = s.count := rfl
@[simp] theorem State.writeSreg_raw (s : State) (r : SReg) (a : Number) : (s.writeSreg r a).raw = s.raw := rfl
@[simp] theorem State.writeSreg_rawExp (s : State) (r : SReg) (a : Number) : (s.writeSreg r a).rawExp = s.rawExp := rfl
@[simp] theorem State.writeSreg_rawSign (s : State) (r : SReg) (a : Number) : (s.writeSreg r a).rawSign = s.rawSign := rfl
@[simp] theorem State.writeSreg_fie (s : State) (r : SReg) (a : Number) : (s.writeSreg r a).fie = s.fie := rfl
@[simp] theorem State.writeSreg_die (s : State) (r : SReg) (a : Number) : (s.writeSreg r a).die = s.die := rfl
@[simp] theorem State.writeSreg_configured (s : State) (r : SReg) (a : Number) : (s.writeSreg r a).configured = s.configured := rfl
@[simp] theorem State.writeSreg_ge (s : State) (r : SReg) (a : Number) : (s.writeSreg r a).ge = s.ge := rfl
@[simp] theorem State.writeSreg_cmp (s : State) (r : SReg) (a : Number) : (s.writeSreg r a).cmp = s.cmp := rfl
@[simp] theorem State.writeSreg_valid (s : State) (r : SReg) (a : Number) : (s.writeSreg r a).valid = s.valid := rfl
@[simp] theorem State.writeSreg_dropped (s : State) (r : SReg) (a : Number) : (s.writeSreg r a).dropped = s.dropped := rfl
@[simp] theorem State.writeSreg_buserr (s : State) (r : SReg) (a : Number) : (s.writeSreg r a).buserr = s.buserr := rfl
@[simp] theorem State.writeSreg_faultCause (s : State) (r : SReg) (a : Number) : (s.writeSreg r a).faultCause = s.faultCause := rfl
@[simp] theorem State.writeSreg_faultV (s : State) (r : SReg) (a : Number) : (s.writeSreg r a).faultV = s.faultV := rfl
@[simp] theorem State.writeSreg_faultCmd (s : State) (r : SReg) (a : Number) : (s.writeSreg r a).faultCmd = s.faultCmd := rfl
@[simp] theorem State.writeSreg_faultLane (s : State) (r : SReg) (a : Number) : (s.writeSreg r a).faultLane = s.faultLane := rfl
@[simp] theorem State.writeSreg_faultSeq (s : State) (r : SReg) (a : Number) : (s.writeSreg r a).faultSeq = s.faultSeq := rfl
@[simp] theorem State.writeSreg_cmdcnt (s : State) (r : SReg) (a : Number) : (s.writeSreg r a).cmdcnt = s.cmdcnt := rfl
@[simp] theorem State.writeSreg_res (s : State) (r : SReg) (a : Number) : (s.writeSreg r a).res = s.res := rfl
@[simp] theorem State.writeSreg_cfgBbp (s : State) (r : SReg) (a : Number) : (s.writeSreg r a).cfgBbp = s.cfgBbp := rfl
@[simp] theorem State.writeSreg_cfgFrac (s : State) (r : SReg) (a : Number) : (s.writeSreg r a).cfgFrac = s.cfgFrac := rfl
@[simp] theorem State.writeSreg_cfgThresh (s : State) (r : SReg) (a : Number) : (s.writeSreg r a).cfgThresh = s.cfgThresh := rfl
@[simp] theorem State.writeSreg_cfgVcount (s : State) (r : SReg) (a : Number) : (s.writeSreg r a).cfgVcount = s.cfgVcount := rfl
@[simp] theorem State.writeSreg_target (s : State) (r : SReg) (a : Number) : (s.writeSreg r a).target = s.target := rfl
@[simp] theorem State.writeSreg_fmtI (s : State) (r : SReg) (a : Number) : (s.writeSreg r a).fmtI = s.fmtI := rfl
@[simp] theorem State.writeSreg_fmtF (s : State) (r : SReg) (a : Number) : (s.writeSreg r a).fmtF = s.fmtF := rfl
@[simp] theorem State.writeSreg_fmtL (s : State) (r : SReg) (a : Number) : (s.writeSreg r a).fmtL = s.fmtL := rfl
@[simp] theorem State.writeSreg_fmtT (s : State) (r : SReg) (a : Number) : (s.writeSreg r a).fmtT = s.fmtT := rfl
@[simp] theorem State.writeSreg_threshMsl (s : State) (r : SReg) (a : Number) : (s.writeSreg r a).threshMsl = s.threshMsl := rfl
@[simp] theorem State.writeSreg_vcount (s : State) (r : SReg) (a : Number) : (s.writeSreg r a).vcount = s.vcount := rfl
@[simp] theorem State.writeSreg_acarry (s : State) (r : SReg) (a : Number) : (s.writeSreg r a).acarry = s.acarry := rfl
@[simp] theorem State.writeSreg_mcarry (s : State) (r : SReg) (a : Number) : (s.writeSreg r a).mcarry = s.mcarry := rfl
@[simp] theorem State.writeSreg_host (s : State) (r : SReg) (a : Number) : (s.writeSreg r a).host = s.host := rfl
@[simp] theorem State.writeSreg_hostData (s : State) (r : SReg) (a : Number) : (s.writeSreg r a).hostData = s.hostData := rfl
@[simp] theorem State.writeSreg_format (s : State) (r : SReg) (a : Number) : (s.writeSreg r a).format = s.format := rfl
@[simp] theorem State.writeSreg_vregAt (s : State) (r : SReg) (a : Number) (q : VReg) : (s.writeSreg r a).vregAt q = s.vregAt q := rfl
@[simp] theorem State.writeSreg_laneAt (s : State) (r : SReg) (a : Number) (q : VReg) (m : Nat) : (s.writeSreg r a).laneAt q m = s.laneAt q m := rfl
@[simp] theorem State.writeSreg_inplayAt (s : State) (r : SReg) (a : Number) (g : Nat) : (s.writeSreg r a).inplayAt g = s.inplayAt g := rfl
@[simp] theorem State.writeSreg_doneAt (s : State) (r : SReg) (a : Number) (m : Nat) : (s.writeSreg r a).doneAt m = s.doneAt m := rfl
@[simp] theorem State.writeSreg_escAt (s : State) (r : SReg) (a : Number) (m : Nat) : (s.writeSreg r a).escAt m = s.escAt m := rfl
@[simp] theorem State.writeSreg_countAt (s : State) (r : SReg) (a : Number) (m : Nat) : (s.writeSreg r a).countAt m = s.countAt m := rfl
@[simp] theorem State.writeSreg_isActive (s : State) (r : SReg) (a : Number) (m : Nat) : (s.writeSreg r a).isActive m = s.isActive m := rfl
@[simp] theorem State.writeSreg_activeLanes (s : State) (r : SReg) (a : Number) : (s.writeSreg r a).activeLanes = s.activeLanes := rfl

/-! ### `writeLane` -/

@[simp] theorem State.writeLane_params (s : State) (v : VReg) (n : Nat) (a : Number) : (s.writeLane v n a).params = s.params := rfl
@[simp] theorem State.writeLane_sregs (s : State) (v : VReg) (n : Nat) (a : Number) : (s.writeLane v n a).sregs = s.sregs := rfl
@[simp] theorem State.writeLane_vregs (s : State) (v : VReg) (n : Nat) (a : Number) : (s.writeLane v n a).vregs = s.vregs.set v ((s.vregAt v).modify n (Number.overwrite s.format.l · a)) := rfl
@[simp] theorem State.writeLane_inplay (s : State) (v : VReg) (n : Nat) (a : Number) : (s.writeLane v n a).inplay = s.inplay := rfl
@[simp] theorem State.writeLane_done (s : State) (v : VReg) (n : Nat) (a : Number) : (s.writeLane v n a).done = s.done := rfl
@[simp] theorem State.writeLane_esc (s : State) (v : VReg) (n : Nat) (a : Number) : (s.writeLane v n a).esc = s.esc := rfl
@[simp] theorem State.writeLane_count (s : State) (v : VReg) (n : Nat) (a : Number) : (s.writeLane v n a).count = s.count := rfl
@[simp] theorem State.writeLane_raw (s : State) (v : VReg) (n : Nat) (a : Number) : (s.writeLane v n a).raw = s.raw := rfl
@[simp] theorem State.writeLane_rawExp (s : State) (v : VReg) (n : Nat) (a : Number) : (s.writeLane v n a).rawExp = s.rawExp := rfl
@[simp] theorem State.writeLane_rawSign (s : State) (v : VReg) (n : Nat) (a : Number) : (s.writeLane v n a).rawSign = s.rawSign := rfl
@[simp] theorem State.writeLane_fie (s : State) (v : VReg) (n : Nat) (a : Number) : (s.writeLane v n a).fie = s.fie := rfl
@[simp] theorem State.writeLane_die (s : State) (v : VReg) (n : Nat) (a : Number) : (s.writeLane v n a).die = s.die := rfl
@[simp] theorem State.writeLane_configured (s : State) (v : VReg) (n : Nat) (a : Number) : (s.writeLane v n a).configured = s.configured := rfl
@[simp] theorem State.writeLane_ge (s : State) (v : VReg) (n : Nat) (a : Number) : (s.writeLane v n a).ge = s.ge := rfl
@[simp] theorem State.writeLane_cmp (s : State) (v : VReg) (n : Nat) (a : Number) : (s.writeLane v n a).cmp = s.cmp := rfl
@[simp] theorem State.writeLane_valid (s : State) (v : VReg) (n : Nat) (a : Number) : (s.writeLane v n a).valid = s.valid := rfl
@[simp] theorem State.writeLane_dropped (s : State) (v : VReg) (n : Nat) (a : Number) : (s.writeLane v n a).dropped = s.dropped := rfl
@[simp] theorem State.writeLane_buserr (s : State) (v : VReg) (n : Nat) (a : Number) : (s.writeLane v n a).buserr = s.buserr := rfl
@[simp] theorem State.writeLane_faultCause (s : State) (v : VReg) (n : Nat) (a : Number) : (s.writeLane v n a).faultCause = s.faultCause := rfl
@[simp] theorem State.writeLane_faultV (s : State) (v : VReg) (n : Nat) (a : Number) : (s.writeLane v n a).faultV = s.faultV := rfl
@[simp] theorem State.writeLane_faultCmd (s : State) (v : VReg) (n : Nat) (a : Number) : (s.writeLane v n a).faultCmd = s.faultCmd := rfl
@[simp] theorem State.writeLane_faultLane (s : State) (v : VReg) (n : Nat) (a : Number) : (s.writeLane v n a).faultLane = s.faultLane := rfl
@[simp] theorem State.writeLane_faultSeq (s : State) (v : VReg) (n : Nat) (a : Number) : (s.writeLane v n a).faultSeq = s.faultSeq := rfl
@[simp] theorem State.writeLane_cmdcnt (s : State) (v : VReg) (n : Nat) (a : Number) : (s.writeLane v n a).cmdcnt = s.cmdcnt := rfl
@[simp] theorem State.writeLane_res (s : State) (v : VReg) (n : Nat) (a : Number) : (s.writeLane v n a).res = s.res := rfl
@[simp] theorem State.writeLane_cfgBbp (s : State) (v : VReg) (n : Nat) (a : Number) : (s.writeLane v n a).cfgBbp = s.cfgBbp := rfl
@[simp] theorem State.writeLane_cfgFrac (s : State) (v : VReg) (n : Nat) (a : Number) : (s.writeLane v n a).cfgFrac = s.cfgFrac := rfl
@[simp] theorem State.writeLane_cfgThresh (s : State) (v : VReg) (n : Nat) (a : Number) : (s.writeLane v n a).cfgThresh = s.cfgThresh := rfl
@[simp] theorem State.writeLane_cfgVcount (s : State) (v : VReg) (n : Nat) (a : Number) : (s.writeLane v n a).cfgVcount = s.cfgVcount := rfl
@[simp] theorem State.writeLane_target (s : State) (v : VReg) (n : Nat) (a : Number) : (s.writeLane v n a).target = s.target := rfl
@[simp] theorem State.writeLane_fmtI (s : State) (v : VReg) (n : Nat) (a : Number) : (s.writeLane v n a).fmtI = s.fmtI := rfl
@[simp] theorem State.writeLane_fmtF (s : State) (v : VReg) (n : Nat) (a : Number) : (s.writeLane v n a).fmtF = s.fmtF := rfl
@[simp] theorem State.writeLane_fmtL (s : State) (v : VReg) (n : Nat) (a : Number) : (s.writeLane v n a).fmtL = s.fmtL := rfl
@[simp] theorem State.writeLane_fmtT (s : State) (v : VReg) (n : Nat) (a : Number) : (s.writeLane v n a).fmtT = s.fmtT := rfl
@[simp] theorem State.writeLane_threshMsl (s : State) (v : VReg) (n : Nat) (a : Number) : (s.writeLane v n a).threshMsl = s.threshMsl := rfl
@[simp] theorem State.writeLane_vcount (s : State) (v : VReg) (n : Nat) (a : Number) : (s.writeLane v n a).vcount = s.vcount := rfl
@[simp] theorem State.writeLane_acarry (s : State) (v : VReg) (n : Nat) (a : Number) : (s.writeLane v n a).acarry = s.acarry := rfl
@[simp] theorem State.writeLane_mcarry (s : State) (v : VReg) (n : Nat) (a : Number) : (s.writeLane v n a).mcarry = s.mcarry := rfl
@[simp] theorem State.writeLane_host (s : State) (v : VReg) (n : Nat) (a : Number) : (s.writeLane v n a).host = s.host := rfl
@[simp] theorem State.writeLane_hostData (s : State) (v : VReg) (n : Nat) (a : Number) : (s.writeLane v n a).hostData = s.hostData := rfl
@[simp] theorem State.writeLane_format (s : State) (v : VReg) (n : Nat) (a : Number) : (s.writeLane v n a).format = s.format := rfl
@[simp] theorem State.writeLane_sregAt (s : State) (v : VReg) (n : Nat) (a : Number) (q : SReg) : (s.writeLane v n a).sregAt q = s.sregAt q := rfl
@[simp] theorem State.writeLane_inplayAt (s : State) (v : VReg) (n : Nat) (a : Number) (g : Nat) : (s.writeLane v n a).inplayAt g = s.inplayAt g := rfl
@[simp] theorem State.writeLane_doneAt (s : State) (v : VReg) (n : Nat) (a : Number) (m : Nat) : (s.writeLane v n a).doneAt m = s.doneAt m := rfl
@[simp] theorem State.writeLane_escAt (s : State) (v : VReg) (n : Nat) (a : Number) (m : Nat) : (s.writeLane v n a).escAt m = s.escAt m := rfl
@[simp] theorem State.writeLane_countAt (s : State) (v : VReg) (n : Nat) (a : Number) (m : Nat) : (s.writeLane v n a).countAt m = s.countAt m := rfl
@[simp] theorem State.writeLane_isActive (s : State) (v : VReg) (n : Nat) (a : Number) (m : Nat) : (s.writeLane v n a).isActive m = s.isActive m := rfl
@[simp] theorem State.writeLane_activeLanes (s : State) (v : VReg) (n : Nat) (a : Number) : (s.writeLane v n a).activeLanes = s.activeLanes := rfl

/-! ### `markDone` -/

@[simp] theorem State.markDone_params (s : State) (n : Nat) : (s.markDone n).params = s.params := rfl
@[simp] theorem State.markDone_sregs (s : State) (n : Nat) : (s.markDone n).sregs = s.sregs := rfl
@[simp] theorem State.markDone_vregs (s : State) (n : Nat) : (s.markDone n).vregs = s.vregs := rfl
@[simp] theorem State.markDone_inplay (s : State) (n : Nat) : (s.markDone n).inplay = s.inplay := rfl
@[simp] theorem State.markDone_done (s : State) (n : Nat) : (s.markDone n).done = s.done.set n true := rfl
@[simp] theorem State.markDone_esc (s : State) (n : Nat) : (s.markDone n).esc = s.esc := rfl
@[simp] theorem State.markDone_count (s : State) (n : Nat) : (s.markDone n).count = s.count := rfl
@[simp] theorem State.markDone_raw (s : State) (n : Nat) : (s.markDone n).raw = s.raw := rfl
@[simp] theorem State.markDone_rawExp (s : State) (n : Nat) : (s.markDone n).rawExp = s.rawExp := rfl
@[simp] theorem State.markDone_rawSign (s : State) (n : Nat) : (s.markDone n).rawSign = s.rawSign := rfl
@[simp] theorem State.markDone_fie (s : State) (n : Nat) : (s.markDone n).fie = s.fie := rfl
@[simp] theorem State.markDone_die (s : State) (n : Nat) : (s.markDone n).die = s.die := rfl
@[simp] theorem State.markDone_configured (s : State) (n : Nat) : (s.markDone n).configured = s.configured := rfl
@[simp] theorem State.markDone_ge (s : State) (n : Nat) : (s.markDone n).ge = s.ge := rfl
@[simp] theorem State.markDone_cmp (s : State) (n : Nat) : (s.markDone n).cmp = s.cmp := rfl
@[simp] theorem State.markDone_valid (s : State) (n : Nat) : (s.markDone n).valid = s.valid := rfl
@[simp] theorem State.markDone_dropped (s : State) (n : Nat) : (s.markDone n).dropped = s.dropped := rfl
@[simp] theorem State.markDone_buserr (s : State) (n : Nat) : (s.markDone n).buserr = s.buserr := rfl
@[simp] theorem State.markDone_faultCause (s : State) (n : Nat) : (s.markDone n).faultCause = s.faultCause := rfl
@[simp] theorem State.markDone_faultV (s : State) (n : Nat) : (s.markDone n).faultV = s.faultV := rfl
@[simp] theorem State.markDone_faultCmd (s : State) (n : Nat) : (s.markDone n).faultCmd = s.faultCmd := rfl
@[simp] theorem State.markDone_faultLane (s : State) (n : Nat) : (s.markDone n).faultLane = s.faultLane := rfl
@[simp] theorem State.markDone_faultSeq (s : State) (n : Nat) : (s.markDone n).faultSeq = s.faultSeq := rfl
@[simp] theorem State.markDone_cmdcnt (s : State) (n : Nat) : (s.markDone n).cmdcnt = s.cmdcnt := rfl
@[simp] theorem State.markDone_res (s : State) (n : Nat) : (s.markDone n).res = s.res := rfl
@[simp] theorem State.markDone_cfgBbp (s : State) (n : Nat) : (s.markDone n).cfgBbp = s.cfgBbp := rfl
@[simp] theorem State.markDone_cfgFrac (s : State) (n : Nat) : (s.markDone n).cfgFrac = s.cfgFrac := rfl
@[simp] theorem State.markDone_cfgThresh (s : State) (n : Nat) : (s.markDone n).cfgThresh = s.cfgThresh := rfl
@[simp] theorem State.markDone_cfgVcount (s : State) (n : Nat) : (s.markDone n).cfgVcount = s.cfgVcount := rfl
@[simp] theorem State.markDone_target (s : State) (n : Nat) : (s.markDone n).target = s.target := rfl
@[simp] theorem State.markDone_fmtI (s : State) (n : Nat) : (s.markDone n).fmtI = s.fmtI := rfl
@[simp] theorem State.markDone_fmtF (s : State) (n : Nat) : (s.markDone n).fmtF = s.fmtF := rfl
@[simp] theorem State.markDone_fmtL (s : State) (n : Nat) : (s.markDone n).fmtL = s.fmtL := rfl
@[simp] theorem State.markDone_fmtT (s : State) (n : Nat) : (s.markDone n).fmtT = s.fmtT := rfl
@[simp] theorem State.markDone_threshMsl (s : State) (n : Nat) : (s.markDone n).threshMsl = s.threshMsl := rfl
@[simp] theorem State.markDone_vcount (s : State) (n : Nat) : (s.markDone n).vcount = s.vcount := rfl
@[simp] theorem State.markDone_acarry (s : State) (n : Nat) : (s.markDone n).acarry = s.acarry := rfl
@[simp] theorem State.markDone_mcarry (s : State) (n : Nat) : (s.markDone n).mcarry = s.mcarry := rfl
@[simp] theorem State.markDone_host (s : State) (n : Nat) : (s.markDone n).host = s.host := rfl
@[simp] theorem State.markDone_hostData (s : State) (n : Nat) : (s.markDone n).hostData = s.hostData := rfl
@[simp] theorem State.markDone_format (s : State) (n : Nat) : (s.markDone n).format = s.format := rfl
@[simp] theorem State.markDone_sregAt (s : State) (n : Nat) (q : SReg) : (s.markDone n).sregAt q = s.sregAt q := rfl
@[simp] theorem State.markDone_vregAt (s : State) (n : Nat) (q : VReg) : (s.markDone n).vregAt q = s.vregAt q := rfl
@[simp] theorem State.markDone_laneAt (s : State) (n : Nat) (q : VReg) (m : Nat) : (s.markDone n).laneAt q m = s.laneAt q m := rfl
@[simp] theorem State.markDone_inplayAt (s : State) (n : Nat) (g : Nat) : (s.markDone n).inplayAt g = s.inplayAt g := rfl
@[simp] theorem State.markDone_escAt (s : State) (n : Nat) (m : Nat) : (s.markDone n).escAt m = s.escAt m := rfl
@[simp] theorem State.markDone_countAt (s : State) (n : Nat) (m : Nat) : (s.markDone n).countAt m = s.countAt m := rfl

/-! ### `orchestratorReset` -/

@[simp] theorem State.orchestratorReset_params (s : State) (n : Nat) : (s.orchestratorReset n).params = s.params := rfl
@[simp] theorem State.orchestratorReset_sregs (s : State) (n : Nat) : (s.orchestratorReset n).sregs = s.sregs := rfl
@[simp] theorem State.orchestratorReset_vregs (s : State) (n : Nat) : (s.orchestratorReset n).vregs = s.vregs := rfl
@[simp] theorem State.orchestratorReset_inplay (s : State) (n : Nat) : (s.orchestratorReset n).inplay = (List.range (s.params.vcap / 4)).map fun g => decide (g < n / 4) := rfl
@[simp] theorem State.orchestratorReset_done (s : State) (n : Nat) : (s.orchestratorReset n).done = List.replicate s.params.vcap false := rfl
@[simp] theorem State.orchestratorReset_esc (s : State) (n : Nat) : (s.orchestratorReset n).esc = List.replicate s.params.vcap false := rfl
@[simp] theorem State.orchestratorReset_count (s : State) (n : Nat) : (s.orchestratorReset n).count = List.replicate s.params.vcap 0 := rfl
@[simp] theorem State.orchestratorReset_raw (s : State) (n : Nat) : (s.orchestratorReset n).raw = s.raw := rfl
@[simp] theorem State.orchestratorReset_rawExp (s : State) (n : Nat) : (s.orchestratorReset n).rawExp = s.rawExp := rfl
@[simp] theorem State.orchestratorReset_rawSign (s : State) (n : Nat) : (s.orchestratorReset n).rawSign = s.rawSign := rfl
@[simp] theorem State.orchestratorReset_fie (s : State) (n : Nat) : (s.orchestratorReset n).fie = s.fie := rfl
@[simp] theorem State.orchestratorReset_die (s : State) (n : Nat) : (s.orchestratorReset n).die = s.die := rfl
@[simp] theorem State.orchestratorReset_configured (s : State) (n : Nat) : (s.orchestratorReset n).configured = s.configured := rfl
@[simp] theorem State.orchestratorReset_ge (s : State) (n : Nat) : (s.orchestratorReset n).ge = s.ge := rfl
@[simp] theorem State.orchestratorReset_cmp (s : State) (n : Nat) : (s.orchestratorReset n).cmp = s.cmp := rfl
@[simp] theorem State.orchestratorReset_valid (s : State) (n : Nat) : (s.orchestratorReset n).valid = s.valid := rfl
@[simp] theorem State.orchestratorReset_dropped (s : State) (n : Nat) : (s.orchestratorReset n).dropped = s.dropped := rfl
@[simp] theorem State.orchestratorReset_buserr (s : State) (n : Nat) : (s.orchestratorReset n).buserr = s.buserr := rfl
@[simp] theorem State.orchestratorReset_faultCause (s : State) (n : Nat) : (s.orchestratorReset n).faultCause = s.faultCause := rfl
@[simp] theorem State.orchestratorReset_faultV (s : State) (n : Nat) : (s.orchestratorReset n).faultV = s.faultV := rfl
@[simp] theorem State.orchestratorReset_faultCmd (s : State) (n : Nat) : (s.orchestratorReset n).faultCmd = s.faultCmd := rfl
@[simp] theorem State.orchestratorReset_faultLane (s : State) (n : Nat) : (s.orchestratorReset n).faultLane = s.faultLane := rfl
@[simp] theorem State.orchestratorReset_faultSeq (s : State) (n : Nat) : (s.orchestratorReset n).faultSeq = s.faultSeq := rfl
@[simp] theorem State.orchestratorReset_cmdcnt (s : State) (n : Nat) : (s.orchestratorReset n).cmdcnt = s.cmdcnt := rfl
@[simp] theorem State.orchestratorReset_res (s : State) (n : Nat) : (s.orchestratorReset n).res = s.res := rfl
@[simp] theorem State.orchestratorReset_cfgBbp (s : State) (n : Nat) : (s.orchestratorReset n).cfgBbp = s.cfgBbp := rfl
@[simp] theorem State.orchestratorReset_cfgFrac (s : State) (n : Nat) : (s.orchestratorReset n).cfgFrac = s.cfgFrac := rfl
@[simp] theorem State.orchestratorReset_cfgThresh (s : State) (n : Nat) : (s.orchestratorReset n).cfgThresh = s.cfgThresh := rfl
@[simp] theorem State.orchestratorReset_cfgVcount (s : State) (n : Nat) : (s.orchestratorReset n).cfgVcount = s.cfgVcount := rfl
@[simp] theorem State.orchestratorReset_target (s : State) (n : Nat) : (s.orchestratorReset n).target = s.target := rfl
@[simp] theorem State.orchestratorReset_fmtI (s : State) (n : Nat) : (s.orchestratorReset n).fmtI = s.fmtI := rfl
@[simp] theorem State.orchestratorReset_fmtF (s : State) (n : Nat) : (s.orchestratorReset n).fmtF = s.fmtF := rfl
@[simp] theorem State.orchestratorReset_fmtL (s : State) (n : Nat) : (s.orchestratorReset n).fmtL = s.fmtL := rfl
@[simp] theorem State.orchestratorReset_fmtT (s : State) (n : Nat) : (s.orchestratorReset n).fmtT = s.fmtT := rfl
@[simp] theorem State.orchestratorReset_threshMsl (s : State) (n : Nat) : (s.orchestratorReset n).threshMsl = s.threshMsl := rfl
@[simp] theorem State.orchestratorReset_vcount (s : State) (n : Nat) : (s.orchestratorReset n).vcount = s.vcount := rfl
@[simp] theorem State.orchestratorReset_acarry (s : State) (n : Nat) : (s.orchestratorReset n).acarry = s.acarry := rfl
@[simp] theorem State.orchestratorReset_mcarry (s : State) (n : Nat) : (s.orchestratorReset n).mcarry = s.mcarry := rfl
@[simp] theorem State.orchestratorReset_host (s : State) (n : Nat) : (s.orchestratorReset n).host = s.host := rfl
@[simp] theorem State.orchestratorReset_hostData (s : State) (n : Nat) : (s.orchestratorReset n).hostData = s.hostData := rfl
@[simp] theorem State.orchestratorReset_format (s : State) (n : Nat) : (s.orchestratorReset n).format = s.format := rfl
@[simp] theorem State.orchestratorReset_sregAt (s : State) (n : Nat) (q : SReg) : (s.orchestratorReset n).sregAt q = s.sregAt q := rfl
@[simp] theorem State.orchestratorReset_vregAt (s : State) (n : Nat) (q : VReg) : (s.orchestratorReset n).vregAt q = s.vregAt q := rfl
@[simp] theorem State.orchestratorReset_laneAt (s : State) (n : Nat) (q : VReg) (m : Nat) : (s.orchestratorReset n).laneAt q m = s.laneAt q m := rfl

/-! ### `addMcarry` -/

@[simp] theorem State.addMcarry_params (s : State) (n : Nat) : (s.addMcarry n).params = s.params := rfl
@[simp] theorem State.addMcarry_sregs (s : State) (n : Nat) : (s.addMcarry n).sregs = s.sregs := rfl
@[simp] theorem State.addMcarry_vregs (s : State) (n : Nat) : (s.addMcarry n).vregs = s.vregs := rfl
@[simp] theorem State.addMcarry_inplay (s : State) (n : Nat) : (s.addMcarry n).inplay = s.inplay := rfl
@[simp] theorem State.addMcarry_done (s : State) (n : Nat) : (s.addMcarry n).done = s.done := rfl
@[simp] theorem State.addMcarry_esc (s : State) (n : Nat) : (s.addMcarry n).esc = s.esc := rfl
@[simp] theorem State.addMcarry_count (s : State) (n : Nat) : (s.addMcarry n).count = s.count := rfl
@[simp] theorem State.addMcarry_raw (s : State) (n : Nat) : (s.addMcarry n).raw = s.raw := rfl
@[simp] theorem State.addMcarry_rawExp (s : State) (n : Nat) : (s.addMcarry n).rawExp = s.rawExp := rfl
@[simp] theorem State.addMcarry_rawSign (s : State) (n : Nat) : (s.addMcarry n).rawSign = s.rawSign := rfl
@[simp] theorem State.addMcarry_fie (s : State) (n : Nat) : (s.addMcarry n).fie = s.fie := rfl
@[simp] theorem State.addMcarry_die (s : State) (n : Nat) : (s.addMcarry n).die = s.die := rfl
@[simp] theorem State.addMcarry_configured (s : State) (n : Nat) : (s.addMcarry n).configured = s.configured := rfl
@[simp] theorem State.addMcarry_ge (s : State) (n : Nat) : (s.addMcarry n).ge = s.ge := rfl
@[simp] theorem State.addMcarry_cmp (s : State) (n : Nat) : (s.addMcarry n).cmp = s.cmp := rfl
@[simp] theorem State.addMcarry_valid (s : State) (n : Nat) : (s.addMcarry n).valid = s.valid := rfl
@[simp] theorem State.addMcarry_dropped (s : State) (n : Nat) : (s.addMcarry n).dropped = s.dropped := rfl
@[simp] theorem State.addMcarry_buserr (s : State) (n : Nat) : (s.addMcarry n).buserr = s.buserr := rfl
@[simp] theorem State.addMcarry_faultCause (s : State) (n : Nat) : (s.addMcarry n).faultCause = s.faultCause := rfl
@[simp] theorem State.addMcarry_faultV (s : State) (n : Nat) : (s.addMcarry n).faultV = s.faultV := rfl
@[simp] theorem State.addMcarry_faultCmd (s : State) (n : Nat) : (s.addMcarry n).faultCmd = s.faultCmd := rfl
@[simp] theorem State.addMcarry_faultLane (s : State) (n : Nat) : (s.addMcarry n).faultLane = s.faultLane := rfl
@[simp] theorem State.addMcarry_faultSeq (s : State) (n : Nat) : (s.addMcarry n).faultSeq = s.faultSeq := rfl
@[simp] theorem State.addMcarry_cmdcnt (s : State) (n : Nat) : (s.addMcarry n).cmdcnt = s.cmdcnt := rfl
@[simp] theorem State.addMcarry_res (s : State) (n : Nat) : (s.addMcarry n).res = s.res := rfl
@[simp] theorem State.addMcarry_cfgBbp (s : State) (n : Nat) : (s.addMcarry n).cfgBbp = s.cfgBbp := rfl
@[simp] theorem State.addMcarry_cfgFrac (s : State) (n : Nat) : (s.addMcarry n).cfgFrac = s.cfgFrac := rfl
@[simp] theorem State.addMcarry_cfgThresh (s : State) (n : Nat) : (s.addMcarry n).cfgThresh = s.cfgThresh := rfl
@[simp] theorem State.addMcarry_cfgVcount (s : State) (n : Nat) : (s.addMcarry n).cfgVcount = s.cfgVcount := rfl
@[simp] theorem State.addMcarry_target (s : State) (n : Nat) : (s.addMcarry n).target = s.target := rfl
@[simp] theorem State.addMcarry_fmtI (s : State) (n : Nat) : (s.addMcarry n).fmtI = s.fmtI := rfl
@[simp] theorem State.addMcarry_fmtF (s : State) (n : Nat) : (s.addMcarry n).fmtF = s.fmtF := rfl
@[simp] theorem State.addMcarry_fmtL (s : State) (n : Nat) : (s.addMcarry n).fmtL = s.fmtL := rfl
@[simp] theorem State.addMcarry_fmtT (s : State) (n : Nat) : (s.addMcarry n).fmtT = s.fmtT := rfl
@[simp] theorem State.addMcarry_threshMsl (s : State) (n : Nat) : (s.addMcarry n).threshMsl = s.threshMsl := rfl
@[simp] theorem State.addMcarry_vcount (s : State) (n : Nat) : (s.addMcarry n).vcount = s.vcount := rfl
@[simp] theorem State.addMcarry_acarry (s : State) (n : Nat) : (s.addMcarry n).acarry = s.acarry := rfl
@[simp] theorem State.addMcarry_mcarry (s : State) (n : Nat) : (s.addMcarry n).mcarry = s.mcarry + BitVec.ofNat 32 n := rfl
@[simp] theorem State.addMcarry_host (s : State) (n : Nat) : (s.addMcarry n).host = s.host := rfl
@[simp] theorem State.addMcarry_hostData (s : State) (n : Nat) : (s.addMcarry n).hostData = s.hostData := rfl
@[simp] theorem State.addMcarry_format (s : State) (n : Nat) : (s.addMcarry n).format = s.format := rfl
@[simp] theorem State.addMcarry_sregAt (s : State) (n : Nat) (q : SReg) : (s.addMcarry n).sregAt q = s.sregAt q := rfl
@[simp] theorem State.addMcarry_vregAt (s : State) (n : Nat) (q : VReg) : (s.addMcarry n).vregAt q = s.vregAt q := rfl
@[simp] theorem State.addMcarry_laneAt (s : State) (n : Nat) (q : VReg) (m : Nat) : (s.addMcarry n).laneAt q m = s.laneAt q m := rfl
@[simp] theorem State.addMcarry_inplayAt (s : State) (n : Nat) (g : Nat) : (s.addMcarry n).inplayAt g = s.inplayAt g := rfl
@[simp] theorem State.addMcarry_doneAt (s : State) (n : Nat) (m : Nat) : (s.addMcarry n).doneAt m = s.doneAt m := rfl
@[simp] theorem State.addMcarry_escAt (s : State) (n : Nat) (m : Nat) : (s.addMcarry n).escAt m = s.escAt m := rfl
@[simp] theorem State.addMcarry_countAt (s : State) (n : Nat) (m : Nat) : (s.addMcarry n).countAt m = s.countAt m := rfl
@[simp] theorem State.addMcarry_isActive (s : State) (n : Nat) (m : Nat) : (s.addMcarry n).isActive m = s.isActive m := rfl
@[simp] theorem State.addMcarry_activeLanes (s : State) (n : Nat) : (s.addMcarry n).activeLanes = s.activeLanes := rfl

/-! ### `bumpAcarry` -/

@[simp] theorem State.bumpAcarry_params (s : State) : (s.bumpAcarry).params = s.params := rfl
@[simp] theorem State.bumpAcarry_sregs (s : State) : (s.bumpAcarry).sregs = s.sregs := rfl
@[simp] theorem State.bumpAcarry_vregs (s : State) : (s.bumpAcarry).vregs = s.vregs := rfl
@[simp] theorem State.bumpAcarry_inplay (s : State) : (s.bumpAcarry).inplay = s.inplay := rfl
@[simp] theorem State.bumpAcarry_done (s : State) : (s.bumpAcarry).done = s.done := rfl
@[simp] theorem State.bumpAcarry_esc (s : State) : (s.bumpAcarry).esc = s.esc := rfl
@[simp] theorem State.bumpAcarry_count (s : State) : (s.bumpAcarry).count = s.count := rfl
@[simp] theorem State.bumpAcarry_raw (s : State) : (s.bumpAcarry).raw = s.raw := rfl
@[simp] theorem State.bumpAcarry_rawExp (s : State) : (s.bumpAcarry).rawExp = s.rawExp := rfl
@[simp] theorem State.bumpAcarry_rawSign (s : State) : (s.bumpAcarry).rawSign = s.rawSign := rfl
@[simp] theorem State.bumpAcarry_fie (s : State) : (s.bumpAcarry).fie = s.fie := rfl
@[simp] theorem State.bumpAcarry_die (s : State) : (s.bumpAcarry).die = s.die := rfl
@[simp] theorem State.bumpAcarry_configured (s : State) : (s.bumpAcarry).configured = s.configured := rfl
@[simp] theorem State.bumpAcarry_ge (s : State) : (s.bumpAcarry).ge = s.ge := rfl
@[simp] theorem State.bumpAcarry_cmp (s : State) : (s.bumpAcarry).cmp = s.cmp := rfl
@[simp] theorem State.bumpAcarry_valid (s : State) : (s.bumpAcarry).valid = s.valid := rfl
@[simp] theorem State.bumpAcarry_dropped (s : State) : (s.bumpAcarry).dropped = s.dropped := rfl
@[simp] theorem State.bumpAcarry_buserr (s : State) : (s.bumpAcarry).buserr = s.buserr := rfl
@[simp] theorem State.bumpAcarry_faultCause (s : State) : (s.bumpAcarry).faultCause = s.faultCause := rfl
@[simp] theorem State.bumpAcarry_faultV (s : State) : (s.bumpAcarry).faultV = s.faultV := rfl
@[simp] theorem State.bumpAcarry_faultCmd (s : State) : (s.bumpAcarry).faultCmd = s.faultCmd := rfl
@[simp] theorem State.bumpAcarry_faultLane (s : State) : (s.bumpAcarry).faultLane = s.faultLane := rfl
@[simp] theorem State.bumpAcarry_faultSeq (s : State) : (s.bumpAcarry).faultSeq = s.faultSeq := rfl
@[simp] theorem State.bumpAcarry_cmdcnt (s : State) : (s.bumpAcarry).cmdcnt = s.cmdcnt := rfl
@[simp] theorem State.bumpAcarry_res (s : State) : (s.bumpAcarry).res = s.res := rfl
@[simp] theorem State.bumpAcarry_cfgBbp (s : State) : (s.bumpAcarry).cfgBbp = s.cfgBbp := rfl
@[simp] theorem State.bumpAcarry_cfgFrac (s : State) : (s.bumpAcarry).cfgFrac = s.cfgFrac := rfl
@[simp] theorem State.bumpAcarry_cfgThresh (s : State) : (s.bumpAcarry).cfgThresh = s.cfgThresh := rfl
@[simp] theorem State.bumpAcarry_cfgVcount (s : State) : (s.bumpAcarry).cfgVcount = s.cfgVcount := rfl
@[simp] theorem State.bumpAcarry_target (s : State) : (s.bumpAcarry).target = s.target := rfl
@[simp] theorem State.bumpAcarry_fmtI (s : State) : (s.bumpAcarry).fmtI = s.fmtI := rfl
@[simp] theorem State.bumpAcarry_fmtF (s : State) : (s.bumpAcarry).fmtF = s.fmtF := rfl
@[simp] theorem State.bumpAcarry_fmtL (s : State) : (s.bumpAcarry).fmtL = s.fmtL := rfl
@[simp] theorem State.bumpAcarry_fmtT (s : State) : (s.bumpAcarry).fmtT = s.fmtT := rfl
@[simp] theorem State.bumpAcarry_threshMsl (s : State) : (s.bumpAcarry).threshMsl = s.threshMsl := rfl
@[simp] theorem State.bumpAcarry_vcount (s : State) : (s.bumpAcarry).vcount = s.vcount := rfl
@[simp] theorem State.bumpAcarry_acarry (s : State) : (s.bumpAcarry).acarry = s.acarry + 1 := rfl
@[simp] theorem State.bumpAcarry_mcarry (s : State) : (s.bumpAcarry).mcarry = s.mcarry := rfl
@[simp] theorem State.bumpAcarry_host (s : State) : (s.bumpAcarry).host = s.host := rfl
@[simp] theorem State.bumpAcarry_hostData (s : State) : (s.bumpAcarry).hostData = s.hostData := rfl
@[simp] theorem State.bumpAcarry_format (s : State) : (s.bumpAcarry).format = s.format := rfl
@[simp] theorem State.bumpAcarry_sregAt (s : State)  (q : SReg) : (s.bumpAcarry).sregAt q = s.sregAt q := rfl
@[simp] theorem State.bumpAcarry_vregAt (s : State)  (q : VReg) : (s.bumpAcarry).vregAt q = s.vregAt q := rfl
@[simp] theorem State.bumpAcarry_laneAt (s : State)  (q : VReg) (m : Nat) : (s.bumpAcarry).laneAt q m = s.laneAt q m := rfl
@[simp] theorem State.bumpAcarry_inplayAt (s : State)  (g : Nat) : (s.bumpAcarry).inplayAt g = s.inplayAt g := rfl
@[simp] theorem State.bumpAcarry_doneAt (s : State)  (m : Nat) : (s.bumpAcarry).doneAt m = s.doneAt m := rfl
@[simp] theorem State.bumpAcarry_escAt (s : State)  (m : Nat) : (s.bumpAcarry).escAt m = s.escAt m := rfl
@[simp] theorem State.bumpAcarry_countAt (s : State)  (m : Nat) : (s.bumpAcarry).countAt m = s.countAt m := rfl
@[simp] theorem State.bumpAcarry_isActive (s : State)  (m : Nat) : (s.bumpAcarry).isActive m = s.isActive m := rfl
@[simp] theorem State.bumpAcarry_activeLanes (s : State) : (s.bumpAcarry).activeLanes = s.activeLanes := rfl

/-! ### `setGe` -/

@[simp] theorem State.setGe_params (s : State) (b : Bool) : (s.setGe b).params = s.params := rfl
@[simp] theorem State.setGe_sregs (s : State) (b : Bool) : (s.setGe b).sregs = s.sregs := rfl
@[simp] theorem State.setGe_vregs (s : State) (b : Bool) : (s.setGe b).vregs = s.vregs := rfl
@[simp] theorem State.setGe_inplay (s : State) (b : Bool) : (s.setGe b).inplay = s.inplay := rfl
@[simp] theorem State.setGe_done (s : State) (b : Bool) : (s.setGe b).done = s.done := rfl
@[simp] theorem State.setGe_esc (s : State) (b : Bool) : (s.setGe b).esc = s.esc := rfl
@[simp] theorem State.setGe_count (s : State) (b : Bool) : (s.setGe b).count = s.count := rfl
@[simp] theorem State.setGe_raw (s : State) (b : Bool) : (s.setGe b).raw = s.raw := rfl
@[simp] theorem State.setGe_rawExp (s : State) (b : Bool) : (s.setGe b).rawExp = s.rawExp := rfl
@[simp] theorem State.setGe_rawSign (s : State) (b : Bool) : (s.setGe b).rawSign = s.rawSign := rfl
@[simp] theorem State.setGe_fie (s : State) (b : Bool) : (s.setGe b).fie = s.fie := rfl
@[simp] theorem State.setGe_die (s : State) (b : Bool) : (s.setGe b).die = s.die := rfl
@[simp] theorem State.setGe_configured (s : State) (b : Bool) : (s.setGe b).configured = s.configured := rfl
@[simp] theorem State.setGe_ge (s : State) (b : Bool) : (s.setGe b).ge = b := rfl
@[simp] theorem State.setGe_cmp (s : State) (b : Bool) : (s.setGe b).cmp = s.cmp := rfl
@[simp] theorem State.setGe_valid (s : State) (b : Bool) : (s.setGe b).valid = s.valid := rfl
@[simp] theorem State.setGe_dropped (s : State) (b : Bool) : (s.setGe b).dropped = s.dropped := rfl
@[simp] theorem State.setGe_buserr (s : State) (b : Bool) : (s.setGe b).buserr = s.buserr := rfl
@[simp] theorem State.setGe_faultCause (s : State) (b : Bool) : (s.setGe b).faultCause = s.faultCause := rfl
@[simp] theorem State.setGe_faultV (s : State) (b : Bool) : (s.setGe b).faultV = s.faultV := rfl
@[simp] theorem State.setGe_faultCmd (s : State) (b : Bool) : (s.setGe b).faultCmd = s.faultCmd := rfl
@[simp] theorem State.setGe_faultLane (s : State) (b : Bool) : (s.setGe b).faultLane = s.faultLane := rfl
@[simp] theorem State.setGe_faultSeq (s : State) (b : Bool) : (s.setGe b).faultSeq = s.faultSeq := rfl
@[simp] theorem State.setGe_cmdcnt (s : State) (b : Bool) : (s.setGe b).cmdcnt = s.cmdcnt := rfl
@[simp] theorem State.setGe_res (s : State) (b : Bool) : (s.setGe b).res = s.res := rfl
@[simp] theorem State.setGe_cfgBbp (s : State) (b : Bool) : (s.setGe b).cfgBbp = s.cfgBbp := rfl
@[simp] theorem State.setGe_cfgFrac (s : State) (b : Bool) : (s.setGe b).cfgFrac = s.cfgFrac := rfl
@[simp] theorem State.setGe_cfgThresh (s : State) (b : Bool) : (s.setGe b).cfgThresh = s.cfgThresh := rfl
@[simp] theorem State.setGe_cfgVcount (s : State) (b : Bool) : (s.setGe b).cfgVcount = s.cfgVcount := rfl
@[simp] theorem State.setGe_target (s : State) (b : Bool) : (s.setGe b).target = s.target := rfl
@[simp] theorem State.setGe_fmtI (s : State) (b : Bool) : (s.setGe b).fmtI = s.fmtI := rfl
@[simp] theorem State.setGe_fmtF (s : State) (b : Bool) : (s.setGe b).fmtF = s.fmtF := rfl
@[simp] theorem State.setGe_fmtL (s : State) (b : Bool) : (s.setGe b).fmtL = s.fmtL := rfl
@[simp] theorem State.setGe_fmtT (s : State) (b : Bool) : (s.setGe b).fmtT = s.fmtT := rfl
@[simp] theorem State.setGe_threshMsl (s : State) (b : Bool) : (s.setGe b).threshMsl = s.threshMsl := rfl
@[simp] theorem State.setGe_vcount (s : State) (b : Bool) : (s.setGe b).vcount = s.vcount := rfl
@[simp] theorem State.setGe_acarry (s : State) (b : Bool) : (s.setGe b).acarry = s.acarry := rfl
@[simp] theorem State.setGe_mcarry (s : State) (b : Bool) : (s.setGe b).mcarry = s.mcarry := rfl
@[simp] theorem State.setGe_host (s : State) (b : Bool) : (s.setGe b).host = s.host := rfl
@[simp] theorem State.setGe_hostData (s : State) (b : Bool) : (s.setGe b).hostData = s.hostData := rfl
@[simp] theorem State.setGe_format (s : State) (b : Bool) : (s.setGe b).format = s.format := rfl
@[simp] theorem State.setGe_sregAt (s : State) (b : Bool) (q : SReg) : (s.setGe b).sregAt q = s.sregAt q := rfl
@[simp] theorem State.setGe_vregAt (s : State) (b : Bool) (q : VReg) : (s.setGe b).vregAt q = s.vregAt q := rfl
@[simp] theorem State.setGe_laneAt (s : State) (b : Bool) (q : VReg) (m : Nat) : (s.setGe b).laneAt q m = s.laneAt q m := rfl
@[simp] theorem State.setGe_inplayAt (s : State) (b : Bool) (g : Nat) : (s.setGe b).inplayAt g = s.inplayAt g := rfl
@[simp] theorem State.setGe_doneAt (s : State) (b : Bool) (m : Nat) : (s.setGe b).doneAt m = s.doneAt m := rfl
@[simp] theorem State.setGe_escAt (s : State) (b : Bool) (m : Nat) : (s.setGe b).escAt m = s.escAt m := rfl
@[simp] theorem State.setGe_countAt (s : State) (b : Bool) (m : Nat) : (s.setGe b).countAt m = s.countAt m := rfl
@[simp] theorem State.setGe_isActive (s : State) (b : Bool) (m : Nat) : (s.setGe b).isActive m = s.isActive m := rfl
@[simp] theorem State.setGe_activeLanes (s : State) (b : Bool) : (s.setGe b).activeLanes = s.activeLanes := rfl

/-! ### `setCmp` -/

@[simp] theorem State.setCmp_params (s : State) (c : BitVec 2) : (s.setCmp c).params = s.params := rfl
@[simp] theorem State.setCmp_sregs (s : State) (c : BitVec 2) : (s.setCmp c).sregs = s.sregs := rfl
@[simp] theorem State.setCmp_vregs (s : State) (c : BitVec 2) : (s.setCmp c).vregs = s.vregs := rfl
@[simp] theorem State.setCmp_inplay (s : State) (c : BitVec 2) : (s.setCmp c).inplay = s.inplay := rfl
@[simp] theorem State.setCmp_done (s : State) (c : BitVec 2) : (s.setCmp c).done = s.done := rfl
@[simp] theorem State.setCmp_esc (s : State) (c : BitVec 2) : (s.setCmp c).esc = s.esc := rfl
@[simp] theorem State.setCmp_count (s : State) (c : BitVec 2) : (s.setCmp c).count = s.count := rfl
@[simp] theorem State.setCmp_raw (s : State) (c : BitVec 2) : (s.setCmp c).raw = s.raw := rfl
@[simp] theorem State.setCmp_rawExp (s : State) (c : BitVec 2) : (s.setCmp c).rawExp = s.rawExp := rfl
@[simp] theorem State.setCmp_rawSign (s : State) (c : BitVec 2) : (s.setCmp c).rawSign = s.rawSign := rfl
@[simp] theorem State.setCmp_fie (s : State) (c : BitVec 2) : (s.setCmp c).fie = s.fie := rfl
@[simp] theorem State.setCmp_die (s : State) (c : BitVec 2) : (s.setCmp c).die = s.die := rfl
@[simp] theorem State.setCmp_configured (s : State) (c : BitVec 2) : (s.setCmp c).configured = s.configured := rfl
@[simp] theorem State.setCmp_ge (s : State) (c : BitVec 2) : (s.setCmp c).ge = s.ge := rfl
@[simp] theorem State.setCmp_cmp (s : State) (c : BitVec 2) : (s.setCmp c).cmp = c := rfl
@[simp] theorem State.setCmp_valid (s : State) (c : BitVec 2) : (s.setCmp c).valid = s.valid := rfl
@[simp] theorem State.setCmp_dropped (s : State) (c : BitVec 2) : (s.setCmp c).dropped = s.dropped := rfl
@[simp] theorem State.setCmp_buserr (s : State) (c : BitVec 2) : (s.setCmp c).buserr = s.buserr := rfl
@[simp] theorem State.setCmp_faultCause (s : State) (c : BitVec 2) : (s.setCmp c).faultCause = s.faultCause := rfl
@[simp] theorem State.setCmp_faultV (s : State) (c : BitVec 2) : (s.setCmp c).faultV = s.faultV := rfl
@[simp] theorem State.setCmp_faultCmd (s : State) (c : BitVec 2) : (s.setCmp c).faultCmd = s.faultCmd := rfl
@[simp] theorem State.setCmp_faultLane (s : State) (c : BitVec 2) : (s.setCmp c).faultLane = s.faultLane := rfl
@[simp] theorem State.setCmp_faultSeq (s : State) (c : BitVec 2) : (s.setCmp c).faultSeq = s.faultSeq := rfl
@[simp] theorem State.setCmp_cmdcnt (s : State) (c : BitVec 2) : (s.setCmp c).cmdcnt = s.cmdcnt := rfl
@[simp] theorem State.setCmp_res (s : State) (c : BitVec 2) : (s.setCmp c).res = s.res := rfl
@[simp] theorem State.setCmp_cfgBbp (s : State) (c : BitVec 2) : (s.setCmp c).cfgBbp = s.cfgBbp := rfl
@[simp] theorem State.setCmp_cfgFrac (s : State) (c : BitVec 2) : (s.setCmp c).cfgFrac = s.cfgFrac := rfl
@[simp] theorem State.setCmp_cfgThresh (s : State) (c : BitVec 2) : (s.setCmp c).cfgThresh = s.cfgThresh := rfl
@[simp] theorem State.setCmp_cfgVcount (s : State) (c : BitVec 2) : (s.setCmp c).cfgVcount = s.cfgVcount := rfl
@[simp] theorem State.setCmp_target (s : State) (c : BitVec 2) : (s.setCmp c).target = s.target := rfl
@[simp] theorem State.setCmp_fmtI (s : State) (c : BitVec 2) : (s.setCmp c).fmtI = s.fmtI := rfl
@[simp] theorem State.setCmp_fmtF (s : State) (c : BitVec 2) : (s.setCmp c).fmtF = s.fmtF := rfl
@[simp] theorem State.setCmp_fmtL (s : State) (c : BitVec 2) : (s.setCmp c).fmtL = s.fmtL := rfl
@[simp] theorem State.setCmp_fmtT (s : State) (c : BitVec 2) : (s.setCmp c).fmtT = s.fmtT := rfl
@[simp] theorem State.setCmp_threshMsl (s : State) (c : BitVec 2) : (s.setCmp c).threshMsl = s.threshMsl := rfl
@[simp] theorem State.setCmp_vcount (s : State) (c : BitVec 2) : (s.setCmp c).vcount = s.vcount := rfl
@[simp] theorem State.setCmp_acarry (s : State) (c : BitVec 2) : (s.setCmp c).acarry = s.acarry := rfl
@[simp] theorem State.setCmp_mcarry (s : State) (c : BitVec 2) : (s.setCmp c).mcarry = s.mcarry := rfl
@[simp] theorem State.setCmp_host (s : State) (c : BitVec 2) : (s.setCmp c).host = s.host := rfl
@[simp] theorem State.setCmp_hostData (s : State) (c : BitVec 2) : (s.setCmp c).hostData = s.hostData := rfl
@[simp] theorem State.setCmp_format (s : State) (c : BitVec 2) : (s.setCmp c).format = s.format := rfl
@[simp] theorem State.setCmp_sregAt (s : State) (c : BitVec 2) (q : SReg) : (s.setCmp c).sregAt q = s.sregAt q := rfl
@[simp] theorem State.setCmp_vregAt (s : State) (c : BitVec 2) (q : VReg) : (s.setCmp c).vregAt q = s.vregAt q := rfl
@[simp] theorem State.setCmp_laneAt (s : State) (c : BitVec 2) (q : VReg) (m : Nat) : (s.setCmp c).laneAt q m = s.laneAt q m := rfl
@[simp] theorem State.setCmp_inplayAt (s : State) (c : BitVec 2) (g : Nat) : (s.setCmp c).inplayAt g = s.inplayAt g := rfl
@[simp] theorem State.setCmp_doneAt (s : State) (c : BitVec 2) (m : Nat) : (s.setCmp c).doneAt m = s.doneAt m := rfl
@[simp] theorem State.setCmp_escAt (s : State) (c : BitVec 2) (m : Nat) : (s.setCmp c).escAt m = s.escAt m := rfl
@[simp] theorem State.setCmp_countAt (s : State) (c : BitVec 2) (m : Nat) : (s.setCmp c).countAt m = s.countAt m := rfl
@[simp] theorem State.setCmp_isActive (s : State) (c : BitVec 2) (m : Nat) : (s.setCmp c).isActive m = s.isActive m := rfl
@[simp] theorem State.setCmp_activeLanes (s : State) (c : BitVec 2) : (s.setCmp c).activeLanes = s.activeLanes := rfl

/-! ### `setValid` -/

@[simp] theorem State.setValid_params (s : State) (b : Bool) : (s.setValid b).params = s.params := rfl
@[simp] theorem State.setValid_sregs (s : State) (b : Bool) : (s.setValid b).sregs = s.sregs := rfl
@[simp] theorem State.setValid_vregs (s : State) (b : Bool) : (s.setValid b).vregs = s.vregs := rfl
@[simp] theorem State.setValid_inplay (s : State) (b : Bool) : (s.setValid b).inplay = s.inplay := rfl
@[simp] theorem State.setValid_done (s : State) (b : Bool) : (s.setValid b).done = s.done := rfl
@[simp] theorem State.setValid_esc (s : State) (b : Bool) : (s.setValid b).esc = s.esc := rfl
@[simp] theorem State.setValid_count (s : State) (b : Bool) : (s.setValid b).count = s.count := rfl
@[simp] theorem State.setValid_raw (s : State) (b : Bool) : (s.setValid b).raw = s.raw := rfl
@[simp] theorem State.setValid_rawExp (s : State) (b : Bool) : (s.setValid b).rawExp = s.rawExp := rfl
@[simp] theorem State.setValid_rawSign (s : State) (b : Bool) : (s.setValid b).rawSign = s.rawSign := rfl
@[simp] theorem State.setValid_fie (s : State) (b : Bool) : (s.setValid b).fie = s.fie := rfl
@[simp] theorem State.setValid_die (s : State) (b : Bool) : (s.setValid b).die = s.die := rfl
@[simp] theorem State.setValid_configured (s : State) (b : Bool) : (s.setValid b).configured = s.configured := rfl
@[simp] theorem State.setValid_ge (s : State) (b : Bool) : (s.setValid b).ge = s.ge := rfl
@[simp] theorem State.setValid_cmp (s : State) (b : Bool) : (s.setValid b).cmp = s.cmp := rfl
@[simp] theorem State.setValid_valid (s : State) (b : Bool) : (s.setValid b).valid = b := rfl
@[simp] theorem State.setValid_dropped (s : State) (b : Bool) : (s.setValid b).dropped = s.dropped := rfl
@[simp] theorem State.setValid_buserr (s : State) (b : Bool) : (s.setValid b).buserr = s.buserr := rfl
@[simp] theorem State.setValid_faultCause (s : State) (b : Bool) : (s.setValid b).faultCause = s.faultCause := rfl
@[simp] theorem State.setValid_faultV (s : State) (b : Bool) : (s.setValid b).faultV = s.faultV := rfl
@[simp] theorem State.setValid_faultCmd (s : State) (b : Bool) : (s.setValid b).faultCmd = s.faultCmd := rfl
@[simp] theorem State.setValid_faultLane (s : State) (b : Bool) : (s.setValid b).faultLane = s.faultLane := rfl
@[simp] theorem State.setValid_faultSeq (s : State) (b : Bool) : (s.setValid b).faultSeq = s.faultSeq := rfl
@[simp] theorem State.setValid_cmdcnt (s : State) (b : Bool) : (s.setValid b).cmdcnt = s.cmdcnt := rfl
@[simp] theorem State.setValid_res (s : State) (b : Bool) : (s.setValid b).res = s.res := rfl
@[simp] theorem State.setValid_cfgBbp (s : State) (b : Bool) : (s.setValid b).cfgBbp = s.cfgBbp := rfl
@[simp] theorem State.setValid_cfgFrac (s : State) (b : Bool) : (s.setValid b).cfgFrac = s.cfgFrac := rfl
@[simp] theorem State.setValid_cfgThresh (s : State) (b : Bool) : (s.setValid b).cfgThresh = s.cfgThresh := rfl
@[simp] theorem State.setValid_cfgVcount (s : State) (b : Bool) : (s.setValid b).cfgVcount = s.cfgVcount := rfl
@[simp] theorem State.setValid_target (s : State) (b : Bool) : (s.setValid b).target = s.target := rfl
@[simp] theorem State.setValid_fmtI (s : State) (b : Bool) : (s.setValid b).fmtI = s.fmtI := rfl
@[simp] theorem State.setValid_fmtF (s : State) (b : Bool) : (s.setValid b).fmtF = s.fmtF := rfl
@[simp] theorem State.setValid_fmtL (s : State) (b : Bool) : (s.setValid b).fmtL = s.fmtL := rfl
@[simp] theorem State.setValid_fmtT (s : State) (b : Bool) : (s.setValid b).fmtT = s.fmtT := rfl
@[simp] theorem State.setValid_threshMsl (s : State) (b : Bool) : (s.setValid b).threshMsl = s.threshMsl := rfl
@[simp] theorem State.setValid_vcount (s : State) (b : Bool) : (s.setValid b).vcount = s.vcount := rfl
@[simp] theorem State.setValid_acarry (s : State) (b : Bool) : (s.setValid b).acarry = s.acarry := rfl
@[simp] theorem State.setValid_mcarry (s : State) (b : Bool) : (s.setValid b).mcarry = s.mcarry := rfl
@[simp] theorem State.setValid_host (s : State) (b : Bool) : (s.setValid b).host = s.host := rfl
@[simp] theorem State.setValid_hostData (s : State) (b : Bool) : (s.setValid b).hostData = s.hostData := rfl
@[simp] theorem State.setValid_format (s : State) (b : Bool) : (s.setValid b).format = s.format := rfl
@[simp] theorem State.setValid_sregAt (s : State) (b : Bool) (q : SReg) : (s.setValid b).sregAt q = s.sregAt q := rfl
@[simp] theorem State.setValid_vregAt (s : State) (b : Bool) (q : VReg) : (s.setValid b).vregAt q = s.vregAt q := rfl
@[simp] theorem State.setValid_laneAt (s : State) (b : Bool) (q : VReg) (m : Nat) : (s.setValid b).laneAt q m = s.laneAt q m := rfl
@[simp] theorem State.setValid_inplayAt (s : State) (b : Bool) (g : Nat) : (s.setValid b).inplayAt g = s.inplayAt g := rfl
@[simp] theorem State.setValid_doneAt (s : State) (b : Bool) (m : Nat) : (s.setValid b).doneAt m = s.doneAt m := rfl
@[simp] theorem State.setValid_escAt (s : State) (b : Bool) (m : Nat) : (s.setValid b).escAt m = s.escAt m := rfl
@[simp] theorem State.setValid_countAt (s : State) (b : Bool) (m : Nat) : (s.setValid b).countAt m = s.countAt m := rfl
@[simp] theorem State.setValid_isActive (s : State) (b : Bool) (m : Nat) : (s.setValid b).isActive m = s.isActive m := rfl
@[simp] theorem State.setValid_activeLanes (s : State) (b : Bool) : (s.setValid b).activeLanes = s.activeLanes := rfl

/-! ### `setRes` -/

@[simp] theorem State.setRes_params (s : State) (n : Nat) : (s.setRes n).params = s.params := rfl
@[simp] theorem State.setRes_sregs (s : State) (n : Nat) : (s.setRes n).sregs = s.sregs := rfl
@[simp] theorem State.setRes_vregs (s : State) (n : Nat) : (s.setRes n).vregs = s.vregs := rfl
@[simp] theorem State.setRes_inplay (s : State) (n : Nat) : (s.setRes n).inplay = s.inplay := rfl
@[simp] theorem State.setRes_done (s : State) (n : Nat) : (s.setRes n).done = s.done := rfl
@[simp] theorem State.setRes_esc (s : State) (n : Nat) : (s.setRes n).esc = s.esc := rfl
@[simp] theorem State.setRes_count (s : State) (n : Nat) : (s.setRes n).count = s.count := rfl
@[simp] theorem State.setRes_raw (s : State) (n : Nat) : (s.setRes n).raw = s.raw := rfl
@[simp] theorem State.setRes_rawExp (s : State) (n : Nat) : (s.setRes n).rawExp = s.rawExp := rfl
@[simp] theorem State.setRes_rawSign (s : State) (n : Nat) : (s.setRes n).rawSign = s.rawSign := rfl
@[simp] theorem State.setRes_fie (s : State) (n : Nat) : (s.setRes n).fie = s.fie := rfl
@[simp] theorem State.setRes_die (s : State) (n : Nat) : (s.setRes n).die = s.die := rfl
@[simp] theorem State.setRes_configured (s : State) (n : Nat) : (s.setRes n).configured = s.configured := rfl
@[simp] theorem State.setRes_ge (s : State) (n : Nat) : (s.setRes n).ge = s.ge := rfl
@[simp] theorem State.setRes_cmp (s : State) (n : Nat) : (s.setRes n).cmp = s.cmp := rfl
@[simp] theorem State.setRes_valid (s : State) (n : Nat) : (s.setRes n).valid = s.valid := rfl
@[simp] theorem State.setRes_dropped (s : State) (n : Nat) : (s.setRes n).dropped = s.dropped := rfl
@[simp] theorem State.setRes_buserr (s : State) (n : Nat) : (s.setRes n).buserr = s.buserr := rfl
@[simp] theorem State.setRes_faultCause (s : State) (n : Nat) : (s.setRes n).faultCause = s.faultCause := rfl
@[simp] theorem State.setRes_faultV (s : State) (n : Nat) : (s.setRes n).faultV = s.faultV := rfl
@[simp] theorem State.setRes_faultCmd (s : State) (n : Nat) : (s.setRes n).faultCmd = s.faultCmd := rfl
@[simp] theorem State.setRes_faultLane (s : State) (n : Nat) : (s.setRes n).faultLane = s.faultLane := rfl
@[simp] theorem State.setRes_faultSeq (s : State) (n : Nat) : (s.setRes n).faultSeq = s.faultSeq := rfl
@[simp] theorem State.setRes_cmdcnt (s : State) (n : Nat) : (s.setRes n).cmdcnt = s.cmdcnt := rfl
@[simp] theorem State.setRes_res (s : State) (n : Nat) : (s.setRes n).res = BitVec.ofNat 32 n := rfl
@[simp] theorem State.setRes_cfgBbp (s : State) (n : Nat) : (s.setRes n).cfgBbp = s.cfgBbp := rfl
@[simp] theorem State.setRes_cfgFrac (s : State) (n : Nat) : (s.setRes n).cfgFrac = s.cfgFrac := rfl
@[simp] theorem State.setRes_cfgThresh (s : State) (n : Nat) : (s.setRes n).cfgThresh = s.cfgThresh := rfl
@[simp] theorem State.setRes_cfgVcount (s : State) (n : Nat) : (s.setRes n).cfgVcount = s.cfgVcount := rfl
@[simp] theorem State.setRes_target (s : State) (n : Nat) : (s.setRes n).target = s.target := rfl
@[simp] theorem State.setRes_fmtI (s : State) (n : Nat) : (s.setRes n).fmtI = s.fmtI := rfl
@[simp] theorem State.setRes_fmtF (s : State) (n : Nat) : (s.setRes n).fmtF = s.fmtF := rfl
@[simp] theorem State.setRes_fmtL (s : State) (n : Nat) : (s.setRes n).fmtL = s.fmtL := rfl
@[simp] theorem State.setRes_fmtT (s : State) (n : Nat) : (s.setRes n).fmtT = s.fmtT := rfl
@[simp] theorem State.setRes_threshMsl (s : State) (n : Nat) : (s.setRes n).threshMsl = s.threshMsl := rfl
@[simp] theorem State.setRes_vcount (s : State) (n : Nat) : (s.setRes n).vcount = s.vcount := rfl
@[simp] theorem State.setRes_acarry (s : State) (n : Nat) : (s.setRes n).acarry = s.acarry := rfl
@[simp] theorem State.setRes_mcarry (s : State) (n : Nat) : (s.setRes n).mcarry = s.mcarry := rfl
@[simp] theorem State.setRes_host (s : State) (n : Nat) : (s.setRes n).host = s.host := rfl
@[simp] theorem State.setRes_hostData (s : State) (n : Nat) : (s.setRes n).hostData = s.hostData := rfl
@[simp] theorem State.setRes_format (s : State) (n : Nat) : (s.setRes n).format = s.format := rfl
@[simp] theorem State.setRes_sregAt (s : State) (n : Nat) (q : SReg) : (s.setRes n).sregAt q = s.sregAt q := rfl
@[simp] theorem State.setRes_vregAt (s : State) (n : Nat) (q : VReg) : (s.setRes n).vregAt q = s.vregAt q := rfl
@[simp] theorem State.setRes_laneAt (s : State) (n : Nat) (q : VReg) (m : Nat) : (s.setRes n).laneAt q m = s.laneAt q m := rfl
@[simp] theorem State.setRes_inplayAt (s : State) (n : Nat) (g : Nat) : (s.setRes n).inplayAt g = s.inplayAt g := rfl
@[simp] theorem State.setRes_doneAt (s : State) (n : Nat) (m : Nat) : (s.setRes n).doneAt m = s.doneAt m := rfl
@[simp] theorem State.setRes_escAt (s : State) (n : Nat) (m : Nat) : (s.setRes n).escAt m = s.escAt m := rfl
@[simp] theorem State.setRes_countAt (s : State) (n : Nat) (m : Nat) : (s.setRes n).countAt m = s.countAt m := rfl
@[simp] theorem State.setRes_isActive (s : State) (n : Nat) (m : Nat) : (s.setRes n).isActive m = s.isActive m := rfl
@[simp] theorem State.setRes_activeLanes (s : State) (n : Nat) : (s.setRes n).activeLanes = s.activeLanes := rfl

/-! ### `record` -/

@[simp] theorem State.record_params (s : State) (w seq : Word) (x : Raised) : (s.record w seq x).params = s.params := rfl
@[simp] theorem State.record_sregs (s : State) (w seq : Word) (x : Raised) : (s.record w seq x).sregs = s.sregs := rfl
@[simp] theorem State.record_vregs (s : State) (w seq : Word) (x : Raised) : (s.record w seq x).vregs = s.vregs := rfl
@[simp] theorem State.record_inplay (s : State) (w seq : Word) (x : Raised) : (s.record w seq x).inplay = s.inplay := rfl
@[simp] theorem State.record_done (s : State) (w seq : Word) (x : Raised) : (s.record w seq x).done = s.done := rfl
@[simp] theorem State.record_esc (s : State) (w seq : Word) (x : Raised) : (s.record w seq x).esc = s.esc := rfl
@[simp] theorem State.record_count (s : State) (w seq : Word) (x : Raised) : (s.record w seq x).count = s.count := rfl
@[simp] theorem State.record_raw (s : State) (w seq : Word) (x : Raised) : (s.record w seq x).raw = s.raw := rfl
@[simp] theorem State.record_rawExp (s : State) (w seq : Word) (x : Raised) : (s.record w seq x).rawExp = s.rawExp := rfl
@[simp] theorem State.record_rawSign (s : State) (w seq : Word) (x : Raised) : (s.record w seq x).rawSign = s.rawSign := rfl
@[simp] theorem State.record_fie (s : State) (w seq : Word) (x : Raised) : (s.record w seq x).fie = s.fie := rfl
@[simp] theorem State.record_die (s : State) (w seq : Word) (x : Raised) : (s.record w seq x).die = s.die := rfl
@[simp] theorem State.record_configured (s : State) (w seq : Word) (x : Raised) : (s.record w seq x).configured = s.configured := rfl
@[simp] theorem State.record_ge (s : State) (w seq : Word) (x : Raised) : (s.record w seq x).ge = s.ge := rfl
@[simp] theorem State.record_cmp (s : State) (w seq : Word) (x : Raised) : (s.record w seq x).cmp = s.cmp := rfl
@[simp] theorem State.record_valid (s : State) (w seq : Word) (x : Raised) : (s.record w seq x).valid = s.valid := rfl
@[simp] theorem State.record_dropped (s : State) (w seq : Word) (x : Raised) : (s.record w seq x).dropped = s.dropped := rfl
@[simp] theorem State.record_buserr (s : State) (w seq : Word) (x : Raised) : (s.record w seq x).buserr = s.buserr := rfl
@[simp] theorem State.record_faultCause (s : State) (w seq : Word) (x : Raised) : (s.record w seq x).faultCause = x.cause.code := rfl
@[simp] theorem State.record_faultV (s : State) (w seq : Word) (x : Raised) : (s.record w seq x).faultV = true := rfl
@[simp] theorem State.record_faultCmd (s : State) (w seq : Word) (x : Raised) : (s.record w seq x).faultCmd = w := rfl
@[simp] theorem State.record_faultLane (s : State) (w seq : Word) (x : Raised) : (s.record w seq x).faultLane = x.lane := rfl
@[simp] theorem State.record_faultSeq (s : State) (w seq : Word) (x : Raised) : (s.record w seq x).faultSeq = seq := rfl
@[simp] theorem State.record_cmdcnt (s : State) (w seq : Word) (x : Raised) : (s.record w seq x).cmdcnt = s.cmdcnt := rfl
@[simp] theorem State.record_res (s : State) (w seq : Word) (x : Raised) : (s.record w seq x).res = s.res := rfl
@[simp] theorem State.record_cfgBbp (s : State) (w seq : Word) (x : Raised) : (s.record w seq x).cfgBbp = s.cfgBbp := rfl
@[simp] theorem State.record_cfgFrac (s : State) (w seq : Word) (x : Raised) : (s.record w seq x).cfgFrac = s.cfgFrac := rfl
@[simp] theorem State.record_cfgThresh (s : State) (w seq : Word) (x : Raised) : (s.record w seq x).cfgThresh = s.cfgThresh := rfl
@[simp] theorem State.record_cfgVcount (s : State) (w seq : Word) (x : Raised) : (s.record w seq x).cfgVcount = s.cfgVcount := rfl
@[simp] theorem State.record_target (s : State) (w seq : Word) (x : Raised) : (s.record w seq x).target = s.target := rfl
@[simp] theorem State.record_fmtI (s : State) (w seq : Word) (x : Raised) : (s.record w seq x).fmtI = s.fmtI := rfl
@[simp] theorem State.record_fmtF (s : State) (w seq : Word) (x : Raised) : (s.record w seq x).fmtF = s.fmtF := rfl
@[simp] theorem State.record_fmtL (s : State) (w seq : Word) (x : Raised) : (s.record w seq x).fmtL = s.fmtL := rfl
@[simp] theorem State.record_fmtT (s : State) (w seq : Word) (x : Raised) : (s.record w seq x).fmtT = s.fmtT := rfl
@[simp] theorem State.record_threshMsl (s : State) (w seq : Word) (x : Raised) : (s.record w seq x).threshMsl = s.threshMsl := rfl
@[simp] theorem State.record_vcount (s : State) (w seq : Word) (x : Raised) : (s.record w seq x).vcount = s.vcount := rfl
@[simp] theorem State.record_acarry (s : State) (w seq : Word) (x : Raised) : (s.record w seq x).acarry = s.acarry := rfl
@[simp] theorem State.record_mcarry (s : State) (w seq : Word) (x : Raised) : (s.record w seq x).mcarry = s.mcarry := rfl
@[simp] theorem State.record_host (s : State) (w seq : Word) (x : Raised) : (s.record w seq x).host = s.host := rfl
@[simp] theorem State.record_hostData (s : State) (w seq : Word) (x : Raised) : (s.record w seq x).hostData = s.hostData := rfl
@[simp] theorem State.record_format (s : State) (w seq : Word) (x : Raised) : (s.record w seq x).format = s.format := rfl
@[simp] theorem State.record_sregAt (s : State) (w seq : Word) (x : Raised) (q : SReg) : (s.record w seq x).sregAt q = s.sregAt q := rfl
@[simp] theorem State.record_vregAt (s : State) (w seq : Word) (x : Raised) (q : VReg) : (s.record w seq x).vregAt q = s.vregAt q := rfl
@[simp] theorem State.record_laneAt (s : State) (w seq : Word) (x : Raised) (q : VReg) (m : Nat) : (s.record w seq x).laneAt q m = s.laneAt q m := rfl
@[simp] theorem State.record_inplayAt (s : State) (w seq : Word) (x : Raised) (g : Nat) : (s.record w seq x).inplayAt g = s.inplayAt g := rfl
@[simp] theorem State.record_doneAt (s : State) (w seq : Word) (x : Raised) (m : Nat) : (s.record w seq x).doneAt m = s.doneAt m := rfl
@[simp] theorem State.record_escAt (s : State) (w seq : Word) (x : Raised) (m : Nat) : (s.record w seq x).escAt m = s.escAt m := rfl
@[simp] theorem State.record_countAt (s : State) (w seq : Word) (x : Raised) (m : Nat) : (s.record w seq x).countAt m = s.countAt m := rfl
@[simp] theorem State.record_isActive (s : State) (w seq : Word) (x : Raised) (m : Nat) : (s.record w seq x).isActive m = s.isActive m := rfl
@[simp] theorem State.record_activeLanes (s : State) (w seq : Word) (x : Raised) : (s.record w seq x).activeLanes = s.activeLanes := rfl

/-! ### `clearFault` -/

@[simp] theorem State.clearFault_params (s : State) : (s.clearFault).params = s.params := rfl
@[simp] theorem State.clearFault_sregs (s : State) : (s.clearFault).sregs = s.sregs := rfl
@[simp] theorem State.clearFault_vregs (s : State) : (s.clearFault).vregs = s.vregs := rfl
@[simp] theorem State.clearFault_inplay (s : State) : (s.clearFault).inplay = s.inplay := rfl
@[simp] theorem State.clearFault_done (s : State) : (s.clearFault).done = s.done := rfl
@[simp] theorem State.clearFault_esc (s : State) : (s.clearFault).esc = s.esc := rfl
@[simp] theorem State.clearFault_count (s : State) : (s.clearFault).count = s.count := rfl
@[simp] theorem State.clearFault_raw (s : State) : (s.clearFault).raw = s.raw := rfl
@[simp] theorem State.clearFault_rawExp (s : State) : (s.clearFault).rawExp = s.rawExp := rfl
@[simp] theorem State.clearFault_rawSign (s : State) : (s.clearFault).rawSign = s.rawSign := rfl
@[simp] theorem State.clearFault_fie (s : State) : (s.clearFault).fie = s.fie := rfl
@[simp] theorem State.clearFault_die (s : State) : (s.clearFault).die = s.die := rfl
@[simp] theorem State.clearFault_configured (s : State) : (s.clearFault).configured = s.configured := rfl
@[simp] theorem State.clearFault_ge (s : State) : (s.clearFault).ge = s.ge := rfl
@[simp] theorem State.clearFault_cmp (s : State) : (s.clearFault).cmp = s.cmp := rfl
@[simp] theorem State.clearFault_valid (s : State) : (s.clearFault).valid = s.valid := rfl
@[simp] theorem State.clearFault_dropped (s : State) : (s.clearFault).dropped = s.dropped := rfl
@[simp] theorem State.clearFault_buserr (s : State) : (s.clearFault).buserr = s.buserr := rfl
@[simp] theorem State.clearFault_faultCause (s : State) : (s.clearFault).faultCause = 0 := rfl
@[simp] theorem State.clearFault_faultV (s : State) : (s.clearFault).faultV = false := rfl
@[simp] theorem State.clearFault_faultCmd (s : State) : (s.clearFault).faultCmd = 0 := rfl
@[simp] theorem State.clearFault_faultLane (s : State) : (s.clearFault).faultLane = 0 := rfl
@[simp] theorem State.clearFault_faultSeq (s : State) : (s.clearFault).faultSeq = 0 := rfl
@[simp] theorem State.clearFault_cmdcnt (s : State) : (s.clearFault).cmdcnt = s.cmdcnt := rfl
@[simp] theorem State.clearFault_res (s : State) : (s.clearFault).res = s.res := rfl
@[simp] theorem State.clearFault_cfgBbp (s : State) : (s.clearFault).cfgBbp = s.cfgBbp := rfl
@[simp] theorem State.clearFault_cfgFrac (s : State) : (s.clearFault).cfgFrac = s.cfgFrac := rfl
@[simp] theorem State.clearFault_cfgThresh (s : State) : (s.clearFault).cfgThresh = s.cfgThresh := rfl
@[simp] theorem State.clearFault_cfgVcount (s : State) : (s.clearFault).cfgVcount = s.cfgVcount := rfl
@[simp] theorem State.clearFault_target (s : State) : (s.clearFault).target = s.target := rfl
@[simp] theorem State.clearFault_fmtI (s : State) : (s.clearFault).fmtI = s.fmtI := rfl
@[simp] theorem State.clearFault_fmtF (s : State) : (s.clearFault).fmtF = s.fmtF := rfl
@[simp] theorem State.clearFault_fmtL (s : State) : (s.clearFault).fmtL = s.fmtL := rfl
@[simp] theorem State.clearFault_fmtT (s : State) : (s.clearFault).fmtT = s.fmtT := rfl
@[simp] theorem State.clearFault_threshMsl (s : State) : (s.clearFault).threshMsl = s.threshMsl := rfl
@[simp] theorem State.clearFault_vcount (s : State) : (s.clearFault).vcount = s.vcount := rfl
@[simp] theorem State.clearFault_acarry (s : State) : (s.clearFault).acarry = s.acarry := rfl
@[simp] theorem State.clearFault_mcarry (s : State) : (s.clearFault).mcarry = s.mcarry := rfl
@[simp] theorem State.clearFault_host (s : State) : (s.clearFault).host = s.host := rfl
@[simp] theorem State.clearFault_hostData (s : State) : (s.clearFault).hostData = s.hostData := rfl
@[simp] theorem State.clearFault_format (s : State) : (s.clearFault).format = s.format := rfl
@[simp] theorem State.clearFault_sregAt (s : State)  (q : SReg) : (s.clearFault).sregAt q = s.sregAt q := rfl
@[simp] theorem State.clearFault_vregAt (s : State)  (q : VReg) : (s.clearFault).vregAt q = s.vregAt q := rfl
@[simp] theorem State.clearFault_laneAt (s : State)  (q : VReg) (m : Nat) : (s.clearFault).laneAt q m = s.laneAt q m := rfl
@[simp] theorem State.clearFault_inplayAt (s : State)  (g : Nat) : (s.clearFault).inplayAt g = s.inplayAt g := rfl
@[simp] theorem State.clearFault_doneAt (s : State)  (m : Nat) : (s.clearFault).doneAt m = s.doneAt m := rfl
@[simp] theorem State.clearFault_escAt (s : State)  (m : Nat) : (s.clearFault).escAt m = s.escAt m := rfl
@[simp] theorem State.clearFault_countAt (s : State)  (m : Nat) : (s.clearFault).countAt m = s.countAt m := rfl
@[simp] theorem State.clearFault_isActive (s : State)  (m : Nat) : (s.clearFault).isActive m = s.isActive m := rfl
@[simp] theorem State.clearFault_activeLanes (s : State) : (s.clearFault).activeLanes = s.activeLanes := rfl

/-! ### `drop` -/

@[simp] theorem State.drop_params (s : State) : (s.drop).params = s.params := rfl
@[simp] theorem State.drop_sregs (s : State) : (s.drop).sregs = s.sregs := rfl
@[simp] theorem State.drop_vregs (s : State) : (s.drop).vregs = s.vregs := rfl
@[simp] theorem State.drop_inplay (s : State) : (s.drop).inplay = s.inplay := rfl
@[simp] theorem State.drop_done (s : State) : (s.drop).done = s.done := rfl
@[simp] theorem State.drop_esc (s : State) : (s.drop).esc = s.esc := rfl
@[simp] theorem State.drop_count (s : State) : (s.drop).count = s.count := rfl
@[simp] theorem State.drop_raw (s : State) : (s.drop).raw = s.raw := rfl
@[simp] theorem State.drop_rawExp (s : State) : (s.drop).rawExp = s.rawExp := rfl
@[simp] theorem State.drop_rawSign (s : State) : (s.drop).rawSign = s.rawSign := rfl
@[simp] theorem State.drop_fie (s : State) : (s.drop).fie = s.fie := rfl
@[simp] theorem State.drop_die (s : State) : (s.drop).die = s.die := rfl
@[simp] theorem State.drop_configured (s : State) : (s.drop).configured = s.configured := rfl
@[simp] theorem State.drop_ge (s : State) : (s.drop).ge = s.ge := rfl
@[simp] theorem State.drop_cmp (s : State) : (s.drop).cmp = s.cmp := rfl
@[simp] theorem State.drop_valid (s : State) : (s.drop).valid = s.valid := rfl
@[simp] theorem State.drop_dropped (s : State) : (s.drop).dropped = true := rfl
@[simp] theorem State.drop_buserr (s : State) : (s.drop).buserr = s.buserr := rfl
@[simp] theorem State.drop_faultCause (s : State) : (s.drop).faultCause = s.faultCause := rfl
@[simp] theorem State.drop_faultV (s : State) : (s.drop).faultV = s.faultV := rfl
@[simp] theorem State.drop_faultCmd (s : State) : (s.drop).faultCmd = s.faultCmd := rfl
@[simp] theorem State.drop_faultLane (s : State) : (s.drop).faultLane = s.faultLane := rfl
@[simp] theorem State.drop_faultSeq (s : State) : (s.drop).faultSeq = s.faultSeq := rfl
@[simp] theorem State.drop_cmdcnt (s : State) : (s.drop).cmdcnt = s.cmdcnt := rfl
@[simp] theorem State.drop_res (s : State) : (s.drop).res = s.res := rfl
@[simp] theorem State.drop_cfgBbp (s : State) : (s.drop).cfgBbp = s.cfgBbp := rfl
@[simp] theorem State.drop_cfgFrac (s : State) : (s.drop).cfgFrac = s.cfgFrac := rfl
@[simp] theorem State.drop_cfgThresh (s : State) : (s.drop).cfgThresh = s.cfgThresh := rfl
@[simp] theorem State.drop_cfgVcount (s : State) : (s.drop).cfgVcount = s.cfgVcount := rfl
@[simp] theorem State.drop_target (s : State) : (s.drop).target = s.target := rfl
@[simp] theorem State.drop_fmtI (s : State) : (s.drop).fmtI = s.fmtI := rfl
@[simp] theorem State.drop_fmtF (s : State) : (s.drop).fmtF = s.fmtF := rfl
@[simp] theorem State.drop_fmtL (s : State) : (s.drop).fmtL = s.fmtL := rfl
@[simp] theorem State.drop_fmtT (s : State) : (s.drop).fmtT = s.fmtT := rfl
@[simp] theorem State.drop_threshMsl (s : State) : (s.drop).threshMsl = s.threshMsl := rfl
@[simp] theorem State.drop_vcount (s : State) : (s.drop).vcount = s.vcount := rfl
@[simp] theorem State.drop_acarry (s : State) : (s.drop).acarry = s.acarry := rfl
@[simp] theorem State.drop_mcarry (s : State) : (s.drop).mcarry = s.mcarry := rfl
@[simp] theorem State.drop_host (s : State) : (s.drop).host = s.host := rfl
@[simp] theorem State.drop_hostData (s : State) : (s.drop).hostData = s.hostData := rfl
@[simp] theorem State.drop_format (s : State) : (s.drop).format = s.format := rfl
@[simp] theorem State.drop_sregAt (s : State)  (q : SReg) : (s.drop).sregAt q = s.sregAt q := rfl
@[simp] theorem State.drop_vregAt (s : State)  (q : VReg) : (s.drop).vregAt q = s.vregAt q := rfl
@[simp] theorem State.drop_laneAt (s : State)  (q : VReg) (m : Nat) : (s.drop).laneAt q m = s.laneAt q m := rfl
@[simp] theorem State.drop_inplayAt (s : State)  (g : Nat) : (s.drop).inplayAt g = s.inplayAt g := rfl
@[simp] theorem State.drop_doneAt (s : State)  (m : Nat) : (s.drop).doneAt m = s.doneAt m := rfl
@[simp] theorem State.drop_escAt (s : State)  (m : Nat) : (s.drop).escAt m = s.escAt m := rfl
@[simp] theorem State.drop_countAt (s : State)  (m : Nat) : (s.drop).countAt m = s.countAt m := rfl
@[simp] theorem State.drop_isActive (s : State)  (m : Nat) : (s.drop).isActive m = s.isActive m := rfl
@[simp] theorem State.drop_activeLanes (s : State) : (s.drop).activeLanes = s.activeLanes := rfl

/-! ### `accept` -/

@[simp] theorem State.accept_params (s : State) : (s.accept).params = s.params := rfl
@[simp] theorem State.accept_sregs (s : State) : (s.accept).sregs = s.sregs := rfl
@[simp] theorem State.accept_vregs (s : State) : (s.accept).vregs = s.vregs := rfl
@[simp] theorem State.accept_inplay (s : State) : (s.accept).inplay = s.inplay := rfl
@[simp] theorem State.accept_done (s : State) : (s.accept).done = s.done := rfl
@[simp] theorem State.accept_esc (s : State) : (s.accept).esc = s.esc := rfl
@[simp] theorem State.accept_count (s : State) : (s.accept).count = s.count := rfl
@[simp] theorem State.accept_raw (s : State) : (s.accept).raw = s.raw := rfl
@[simp] theorem State.accept_rawExp (s : State) : (s.accept).rawExp = s.rawExp := rfl
@[simp] theorem State.accept_rawSign (s : State) : (s.accept).rawSign = s.rawSign := rfl
@[simp] theorem State.accept_fie (s : State) : (s.accept).fie = s.fie := rfl
@[simp] theorem State.accept_die (s : State) : (s.accept).die = s.die := rfl
@[simp] theorem State.accept_configured (s : State) : (s.accept).configured = s.configured := rfl
@[simp] theorem State.accept_ge (s : State) : (s.accept).ge = s.ge := rfl
@[simp] theorem State.accept_cmp (s : State) : (s.accept).cmp = s.cmp := rfl
@[simp] theorem State.accept_valid (s : State) : (s.accept).valid = s.valid := rfl
@[simp] theorem State.accept_dropped (s : State) : (s.accept).dropped = s.dropped := rfl
@[simp] theorem State.accept_buserr (s : State) : (s.accept).buserr = s.buserr := rfl
@[simp] theorem State.accept_faultCause (s : State) : (s.accept).faultCause = s.faultCause := rfl
@[simp] theorem State.accept_faultV (s : State) : (s.accept).faultV = s.faultV := rfl
@[simp] theorem State.accept_faultCmd (s : State) : (s.accept).faultCmd = s.faultCmd := rfl
@[simp] theorem State.accept_faultLane (s : State) : (s.accept).faultLane = s.faultLane := rfl
@[simp] theorem State.accept_faultSeq (s : State) : (s.accept).faultSeq = s.faultSeq := rfl
@[simp] theorem State.accept_cmdcnt (s : State) : (s.accept).cmdcnt = s.cmdcnt + 1 := rfl
@[simp] theorem State.accept_res (s : State) : (s.accept).res = s.res := rfl
@[simp] theorem State.accept_cfgBbp (s : State) : (s.accept).cfgBbp = s.cfgBbp := rfl
@[simp] theorem State.accept_cfgFrac (s : State) : (s.accept).cfgFrac = s.cfgFrac := rfl
@[simp] theorem State.accept_cfgThresh (s : State) : (s.accept).cfgThresh = s.cfgThresh := rfl
@[simp] theorem State.accept_cfgVcount (s : State) : (s.accept).cfgVcount = s.cfgVcount := rfl
@[simp] theorem State.accept_target (s : State) : (s.accept).target = s.target := rfl
@[simp] theorem State.accept_fmtI (s : State) : (s.accept).fmtI = s.fmtI := rfl
@[simp] theorem State.accept_fmtF (s : State) : (s.accept).fmtF = s.fmtF := rfl
@[simp] theorem State.accept_fmtL (s : State) : (s.accept).fmtL = s.fmtL := rfl
@[simp] theorem State.accept_fmtT (s : State) : (s.accept).fmtT = s.fmtT := rfl
@[simp] theorem State.accept_threshMsl (s : State) : (s.accept).threshMsl = s.threshMsl := rfl
@[simp] theorem State.accept_vcount (s : State) : (s.accept).vcount = s.vcount := rfl
@[simp] theorem State.accept_acarry (s : State) : (s.accept).acarry = s.acarry := rfl
@[simp] theorem State.accept_mcarry (s : State) : (s.accept).mcarry = s.mcarry := rfl
@[simp] theorem State.accept_host (s : State) : (s.accept).host = s.host := rfl
@[simp] theorem State.accept_hostData (s : State) : (s.accept).hostData = s.hostData := rfl
@[simp] theorem State.accept_format (s : State) : (s.accept).format = s.format := rfl
@[simp] theorem State.accept_sregAt (s : State)  (q : SReg) : (s.accept).sregAt q = s.sregAt q := rfl
@[simp] theorem State.accept_vregAt (s : State)  (q : VReg) : (s.accept).vregAt q = s.vregAt q := rfl
@[simp] theorem State.accept_laneAt (s : State)  (q : VReg) (m : Nat) : (s.accept).laneAt q m = s.laneAt q m := rfl
@[simp] theorem State.accept_inplayAt (s : State)  (g : Nat) : (s.accept).inplayAt g = s.inplayAt g := rfl
@[simp] theorem State.accept_doneAt (s : State)  (m : Nat) : (s.accept).doneAt m = s.doneAt m := rfl
@[simp] theorem State.accept_escAt (s : State)  (m : Nat) : (s.accept).escAt m = s.escAt m := rfl
@[simp] theorem State.accept_countAt (s : State)  (m : Nat) : (s.accept).countAt m = s.countAt m := rfl
@[simp] theorem State.accept_isActive (s : State)  (m : Nat) : (s.accept).isActive m = s.isActive m := rfl
@[simp] theorem State.accept_activeLanes (s : State) : (s.accept).activeLanes = s.activeLanes := rfl

/-! ### `faulted` -/

@[simp] theorem State.faulted_params (s : State) (w : Word) (x : Raised) : (s.faulted w x).params = s.params := rfl
@[simp] theorem State.faulted_sregs (s : State) (w : Word) (x : Raised) : (s.faulted w x).sregs = s.sregs := rfl
@[simp] theorem State.faulted_vregs (s : State) (w : Word) (x : Raised) : (s.faulted w x).vregs = s.vregs := rfl
@[simp] theorem State.faulted_inplay (s : State) (w : Word) (x : Raised) : (s.faulted w x).inplay = s.inplay := rfl
@[simp] theorem State.faulted_done (s : State) (w : Word) (x : Raised) : (s.faulted w x).done = s.done := rfl
@[simp] theorem State.faulted_esc (s : State) (w : Word) (x : Raised) : (s.faulted w x).esc = s.esc := rfl
@[simp] theorem State.faulted_count (s : State) (w : Word) (x : Raised) : (s.faulted w x).count = s.count := rfl
@[simp] theorem State.faulted_raw (s : State) (w : Word) (x : Raised) : (s.faulted w x).raw = s.raw := rfl
@[simp] theorem State.faulted_rawExp (s : State) (w : Word) (x : Raised) : (s.faulted w x).rawExp = s.rawExp := rfl
@[simp] theorem State.faulted_rawSign (s : State) (w : Word) (x : Raised) : (s.faulted w x).rawSign = s.rawSign := rfl
@[simp] theorem State.faulted_fie (s : State) (w : Word) (x : Raised) : (s.faulted w x).fie = s.fie := rfl
@[simp] theorem State.faulted_die (s : State) (w : Word) (x : Raised) : (s.faulted w x).die = s.die := rfl
@[simp] theorem State.faulted_configured (s : State) (w : Word) (x : Raised) : (s.faulted w x).configured = s.configured := rfl
@[simp] theorem State.faulted_ge (s : State) (w : Word) (x : Raised) : (s.faulted w x).ge = s.ge := rfl
@[simp] theorem State.faulted_cmp (s : State) (w : Word) (x : Raised) : (s.faulted w x).cmp = s.cmp := rfl
@[simp] theorem State.faulted_valid (s : State) (w : Word) (x : Raised) : (s.faulted w x).valid = s.valid := rfl
@[simp] theorem State.faulted_dropped (s : State) (w : Word) (x : Raised) : (s.faulted w x).dropped = s.dropped := rfl
@[simp] theorem State.faulted_buserr (s : State) (w : Word) (x : Raised) : (s.faulted w x).buserr = s.buserr := rfl
@[simp] theorem State.faulted_faultCause (s : State) (w : Word) (x : Raised) : (s.faulted w x).faultCause = x.cause.code := rfl
@[simp] theorem State.faulted_faultV (s : State) (w : Word) (x : Raised) : (s.faulted w x).faultV = true := rfl
@[simp] theorem State.faulted_faultCmd (s : State) (w : Word) (x : Raised) : (s.faulted w x).faultCmd = w := rfl
@[simp] theorem State.faulted_faultLane (s : State) (w : Word) (x : Raised) : (s.faulted w x).faultLane = x.lane := rfl
@[simp] theorem State.faulted_faultSeq (s : State) (w : Word) (x : Raised) : (s.faulted w x).faultSeq = s.cmdcnt := rfl
@[simp] theorem State.faulted_cmdcnt (s : State) (w : Word) (x : Raised) : (s.faulted w x).cmdcnt = s.cmdcnt + 1 := rfl
@[simp] theorem State.faulted_res (s : State) (w : Word) (x : Raised) : (s.faulted w x).res = s.res := rfl
@[simp] theorem State.faulted_cfgBbp (s : State) (w : Word) (x : Raised) : (s.faulted w x).cfgBbp = s.cfgBbp := rfl
@[simp] theorem State.faulted_cfgFrac (s : State) (w : Word) (x : Raised) : (s.faulted w x).cfgFrac = s.cfgFrac := rfl
@[simp] theorem State.faulted_cfgThresh (s : State) (w : Word) (x : Raised) : (s.faulted w x).cfgThresh = s.cfgThresh := rfl
@[simp] theorem State.faulted_cfgVcount (s : State) (w : Word) (x : Raised) : (s.faulted w x).cfgVcount = s.cfgVcount := rfl
@[simp] theorem State.faulted_target (s : State) (w : Word) (x : Raised) : (s.faulted w x).target = s.target := rfl
@[simp] theorem State.faulted_fmtI (s : State) (w : Word) (x : Raised) : (s.faulted w x).fmtI = s.fmtI := rfl
@[simp] theorem State.faulted_fmtF (s : State) (w : Word) (x : Raised) : (s.faulted w x).fmtF = s.fmtF := rfl
@[simp] theorem State.faulted_fmtL (s : State) (w : Word) (x : Raised) : (s.faulted w x).fmtL = s.fmtL := rfl
@[simp] theorem State.faulted_fmtT (s : State) (w : Word) (x : Raised) : (s.faulted w x).fmtT = s.fmtT := rfl
@[simp] theorem State.faulted_threshMsl (s : State) (w : Word) (x : Raised) : (s.faulted w x).threshMsl = s.threshMsl := rfl
@[simp] theorem State.faulted_vcount (s : State) (w : Word) (x : Raised) : (s.faulted w x).vcount = s.vcount := rfl
@[simp] theorem State.faulted_acarry (s : State) (w : Word) (x : Raised) : (s.faulted w x).acarry = s.acarry := rfl
@[simp] theorem State.faulted_mcarry (s : State) (w : Word) (x : Raised) : (s.faulted w x).mcarry = s.mcarry := rfl
@[simp] theorem State.faulted_host (s : State) (w : Word) (x : Raised) : (s.faulted w x).host = s.host := rfl
@[simp] theorem State.faulted_hostData (s : State) (w : Word) (x : Raised) : (s.faulted w x).hostData = s.hostData := rfl
@[simp] theorem State.faulted_format (s : State) (w : Word) (x : Raised) : (s.faulted w x).format = s.format := rfl
@[simp] theorem State.faulted_sregAt (s : State) (w : Word) (x : Raised) (q : SReg) : (s.faulted w x).sregAt q = s.sregAt q := rfl
@[simp] theorem State.faulted_vregAt (s : State) (w : Word) (x : Raised) (q : VReg) : (s.faulted w x).vregAt q = s.vregAt q := rfl
@[simp] theorem State.faulted_laneAt (s : State) (w : Word) (x : Raised) (q : VReg) (m : Nat) : (s.faulted w x).laneAt q m = s.laneAt q m := rfl
@[simp] theorem State.faulted_inplayAt (s : State) (w : Word) (x : Raised) (g : Nat) : (s.faulted w x).inplayAt g = s.inplayAt g := rfl
@[simp] theorem State.faulted_doneAt (s : State) (w : Word) (x : Raised) (m : Nat) : (s.faulted w x).doneAt m = s.doneAt m := rfl
@[simp] theorem State.faulted_escAt (s : State) (w : Word) (x : Raised) (m : Nat) : (s.faulted w x).escAt m = s.escAt m := rfl
@[simp] theorem State.faulted_countAt (s : State) (w : Word) (x : Raised) (m : Nat) : (s.faulted w x).countAt m = s.countAt m := rfl
@[simp] theorem State.faulted_isActive (s : State) (w : Word) (x : Raised) (m : Nat) : (s.faulted w x).isActive m = s.isActive m := rfl
@[simp] theorem State.faulted_activeLanes (s : State) (w : Word) (x : Raised) : (s.faulted w x).activeLanes = s.activeLanes := rfl

/-! ### `dropRetiredGroups` -/

@[simp] theorem State.dropRetiredGroups_params (s : State) : (s.dropRetiredGroups).params = s.params := rfl
@[simp] theorem State.dropRetiredGroups_sregs (s : State) : (s.dropRetiredGroups).sregs = s.sregs := rfl
@[simp] theorem State.dropRetiredGroups_vregs (s : State) : (s.dropRetiredGroups).vregs = s.vregs := rfl
@[simp] theorem State.dropRetiredGroups_inplay (s : State) : (s.dropRetiredGroups).inplay = s.inplay.mapIdx fun g p => p && !s.groupDone g := rfl
@[simp] theorem State.dropRetiredGroups_done (s : State) : (s.dropRetiredGroups).done = s.done := rfl
@[simp] theorem State.dropRetiredGroups_esc (s : State) : (s.dropRetiredGroups).esc = s.esc := rfl
@[simp] theorem State.dropRetiredGroups_count (s : State) : (s.dropRetiredGroups).count = s.count := rfl
@[simp] theorem State.dropRetiredGroups_raw (s : State) : (s.dropRetiredGroups).raw = s.raw := rfl
@[simp] theorem State.dropRetiredGroups_rawExp (s : State) : (s.dropRetiredGroups).rawExp = s.rawExp := rfl
@[simp] theorem State.dropRetiredGroups_rawSign (s : State) : (s.dropRetiredGroups).rawSign = s.rawSign := rfl
@[simp] theorem State.dropRetiredGroups_fie (s : State) : (s.dropRetiredGroups).fie = s.fie := rfl
@[simp] theorem State.dropRetiredGroups_die (s : State) : (s.dropRetiredGroups).die = s.die := rfl
@[simp] theorem State.dropRetiredGroups_configured (s : State) : (s.dropRetiredGroups).configured = s.configured := rfl
@[simp] theorem State.dropRetiredGroups_ge (s : State) : (s.dropRetiredGroups).ge = s.ge := rfl
@[simp] theorem State.dropRetiredGroups_cmp (s : State) : (s.dropRetiredGroups).cmp = s.cmp := rfl
@[simp] theorem State.dropRetiredGroups_valid (s : State) : (s.dropRetiredGroups).valid = s.valid := rfl
@[simp] theorem State.dropRetiredGroups_dropped (s : State) : (s.dropRetiredGroups).dropped = s.dropped := rfl
@[simp] theorem State.dropRetiredGroups_buserr (s : State) : (s.dropRetiredGroups).buserr = s.buserr := rfl
@[simp] theorem State.dropRetiredGroups_faultCause (s : State) : (s.dropRetiredGroups).faultCause = s.faultCause := rfl
@[simp] theorem State.dropRetiredGroups_faultV (s : State) : (s.dropRetiredGroups).faultV = s.faultV := rfl
@[simp] theorem State.dropRetiredGroups_faultCmd (s : State) : (s.dropRetiredGroups).faultCmd = s.faultCmd := rfl
@[simp] theorem State.dropRetiredGroups_faultLane (s : State) : (s.dropRetiredGroups).faultLane = s.faultLane := rfl
@[simp] theorem State.dropRetiredGroups_faultSeq (s : State) : (s.dropRetiredGroups).faultSeq = s.faultSeq := rfl
@[simp] theorem State.dropRetiredGroups_cmdcnt (s : State) : (s.dropRetiredGroups).cmdcnt = s.cmdcnt := rfl
@[simp] theorem State.dropRetiredGroups_res (s : State) : (s.dropRetiredGroups).res = s.res := rfl
@[simp] theorem State.dropRetiredGroups_cfgBbp (s : State) : (s.dropRetiredGroups).cfgBbp = s.cfgBbp := rfl
@[simp] theorem State.dropRetiredGroups_cfgFrac (s : State) : (s.dropRetiredGroups).cfgFrac = s.cfgFrac := rfl
@[simp] theorem State.dropRetiredGroups_cfgThresh (s : State) : (s.dropRetiredGroups).cfgThresh = s.cfgThresh := rfl
@[simp] theorem State.dropRetiredGroups_cfgVcount (s : State) : (s.dropRetiredGroups).cfgVcount = s.cfgVcount := rfl
@[simp] theorem State.dropRetiredGroups_target (s : State) : (s.dropRetiredGroups).target = s.target := rfl
@[simp] theorem State.dropRetiredGroups_fmtI (s : State) : (s.dropRetiredGroups).fmtI = s.fmtI := rfl
@[simp] theorem State.dropRetiredGroups_fmtF (s : State) : (s.dropRetiredGroups).fmtF = s.fmtF := rfl
@[simp] theorem State.dropRetiredGroups_fmtL (s : State) : (s.dropRetiredGroups).fmtL = s.fmtL := rfl
@[simp] theorem State.dropRetiredGroups_fmtT (s : State) : (s.dropRetiredGroups).fmtT = s.fmtT := rfl
@[simp] theorem State.dropRetiredGroups_threshMsl (s : State) : (s.dropRetiredGroups).threshMsl = s.threshMsl := rfl
@[simp] theorem State.dropRetiredGroups_vcount (s : State) : (s.dropRetiredGroups).vcount = s.vcount := rfl
@[simp] theorem State.dropRetiredGroups_acarry (s : State) : (s.dropRetiredGroups).acarry = s.acarry := rfl
@[simp] theorem State.dropRetiredGroups_mcarry (s : State) : (s.dropRetiredGroups).mcarry = s.mcarry := rfl
@[simp] theorem State.dropRetiredGroups_host (s : State) : (s.dropRetiredGroups).host = s.host := rfl
@[simp] theorem State.dropRetiredGroups_hostData (s : State) : (s.dropRetiredGroups).hostData = s.hostData := rfl
@[simp] theorem State.dropRetiredGroups_format (s : State) : (s.dropRetiredGroups).format = s.format := rfl
@[simp] theorem State.dropRetiredGroups_sregAt (s : State)  (q : SReg) : (s.dropRetiredGroups).sregAt q = s.sregAt q := rfl
@[simp] theorem State.dropRetiredGroups_vregAt (s : State)  (q : VReg) : (s.dropRetiredGroups).vregAt q = s.vregAt q := rfl
@[simp] theorem State.dropRetiredGroups_laneAt (s : State)  (q : VReg) (m : Nat) : (s.dropRetiredGroups).laneAt q m = s.laneAt q m := rfl
@[simp] theorem State.dropRetiredGroups_doneAt (s : State)  (m : Nat) : (s.dropRetiredGroups).doneAt m = s.doneAt m := rfl
@[simp] theorem State.dropRetiredGroups_escAt (s : State)  (m : Nat) : (s.dropRetiredGroups).escAt m = s.escAt m := rfl
@[simp] theorem State.dropRetiredGroups_countAt (s : State)  (m : Nat) : (s.dropRetiredGroups).countAt m = s.countAt m := rfl

/-! ### `updateLane` -/

@[simp] theorem State.updateLane_params (s : State) (rep : Rep) (va : VReg) (n : Nat) : (State.updateLane rep va s n).params = s.params := rfl
@[simp] theorem State.updateLane_sregs (s : State) (rep : Rep) (va : VReg) (n : Nat) : (State.updateLane rep va s n).sregs = s.sregs := rfl
@[simp] theorem State.updateLane_vregs (s : State) (rep : Rep) (va : VReg) (n : Nat) : (State.updateLane rep va s n).vregs = s.vregs := rfl
@[simp] theorem State.updateLane_inplay (s : State) (rep : Rep) (va : VReg) (n : Nat) : (State.updateLane rep va s n).inplay = s.inplay := rfl
@[simp] theorem State.updateLane_esc (s : State) (rep : Rep) (va : VReg) (n : Nat) : (State.updateLane rep va s n).esc = s.esc.set n (s.geThr rep (s.laneAt va n)) := rfl
@[simp] theorem State.updateLane_count (s : State) (rep : Rep) (va : VReg) (n : Nat) : (State.updateLane rep va s n).count = s.count.set n (s.countAt n + 1) := rfl
@[simp] theorem State.updateLane_raw (s : State) (rep : Rep) (va : VReg) (n : Nat) : (State.updateLane rep va s n).raw = s.raw := rfl
@[simp] theorem State.updateLane_rawExp (s : State) (rep : Rep) (va : VReg) (n : Nat) : (State.updateLane rep va s n).rawExp = s.rawExp := rfl
@[simp] theorem State.updateLane_rawSign (s : State) (rep : Rep) (va : VReg) (n : Nat) : (State.updateLane rep va s n).rawSign = s.rawSign := rfl
@[simp] theorem State.updateLane_fie (s : State) (rep : Rep) (va : VReg) (n : Nat) : (State.updateLane rep va s n).fie = s.fie := rfl
@[simp] theorem State.updateLane_die (s : State) (rep : Rep) (va : VReg) (n : Nat) : (State.updateLane rep va s n).die = s.die := rfl
@[simp] theorem State.updateLane_configured (s : State) (rep : Rep) (va : VReg) (n : Nat) : (State.updateLane rep va s n).configured = s.configured := rfl
@[simp] theorem State.updateLane_ge (s : State) (rep : Rep) (va : VReg) (n : Nat) : (State.updateLane rep va s n).ge = s.ge := rfl
@[simp] theorem State.updateLane_cmp (s : State) (rep : Rep) (va : VReg) (n : Nat) : (State.updateLane rep va s n).cmp = s.cmp := rfl
@[simp] theorem State.updateLane_valid (s : State) (rep : Rep) (va : VReg) (n : Nat) : (State.updateLane rep va s n).valid = s.valid := rfl
@[simp] theorem State.updateLane_dropped (s : State) (rep : Rep) (va : VReg) (n : Nat) : (State.updateLane rep va s n).dropped = s.dropped := rfl
@[simp] theorem State.updateLane_buserr (s : State) (rep : Rep) (va : VReg) (n : Nat) : (State.updateLane rep va s n).buserr = s.buserr := rfl
@[simp] theorem State.updateLane_faultCause (s : State) (rep : Rep) (va : VReg) (n : Nat) : (State.updateLane rep va s n).faultCause = s.faultCause := rfl
@[simp] theorem State.updateLane_faultV (s : State) (rep : Rep) (va : VReg) (n : Nat) : (State.updateLane rep va s n).faultV = s.faultV := rfl
@[simp] theorem State.updateLane_faultCmd (s : State) (rep : Rep) (va : VReg) (n : Nat) : (State.updateLane rep va s n).faultCmd = s.faultCmd := rfl
@[simp] theorem State.updateLane_faultLane (s : State) (rep : Rep) (va : VReg) (n : Nat) : (State.updateLane rep va s n).faultLane = s.faultLane := rfl
@[simp] theorem State.updateLane_faultSeq (s : State) (rep : Rep) (va : VReg) (n : Nat) : (State.updateLane rep va s n).faultSeq = s.faultSeq := rfl
@[simp] theorem State.updateLane_cmdcnt (s : State) (rep : Rep) (va : VReg) (n : Nat) : (State.updateLane rep va s n).cmdcnt = s.cmdcnt := rfl
@[simp] theorem State.updateLane_res (s : State) (rep : Rep) (va : VReg) (n : Nat) : (State.updateLane rep va s n).res = s.res := rfl
@[simp] theorem State.updateLane_cfgBbp (s : State) (rep : Rep) (va : VReg) (n : Nat) : (State.updateLane rep va s n).cfgBbp = s.cfgBbp := rfl
@[simp] theorem State.updateLane_cfgFrac (s : State) (rep : Rep) (va : VReg) (n : Nat) : (State.updateLane rep va s n).cfgFrac = s.cfgFrac := rfl
@[simp] theorem State.updateLane_cfgThresh (s : State) (rep : Rep) (va : VReg) (n : Nat) : (State.updateLane rep va s n).cfgThresh = s.cfgThresh := rfl
@[simp] theorem State.updateLane_cfgVcount (s : State) (rep : Rep) (va : VReg) (n : Nat) : (State.updateLane rep va s n).cfgVcount = s.cfgVcount := rfl
@[simp] theorem State.updateLane_target (s : State) (rep : Rep) (va : VReg) (n : Nat) : (State.updateLane rep va s n).target = s.target := rfl
@[simp] theorem State.updateLane_fmtI (s : State) (rep : Rep) (va : VReg) (n : Nat) : (State.updateLane rep va s n).fmtI = s.fmtI := rfl
@[simp] theorem State.updateLane_fmtF (s : State) (rep : Rep) (va : VReg) (n : Nat) : (State.updateLane rep va s n).fmtF = s.fmtF := rfl
@[simp] theorem State.updateLane_fmtL (s : State) (rep : Rep) (va : VReg) (n : Nat) : (State.updateLane rep va s n).fmtL = s.fmtL := rfl
@[simp] theorem State.updateLane_fmtT (s : State) (rep : Rep) (va : VReg) (n : Nat) : (State.updateLane rep va s n).fmtT = s.fmtT := rfl
@[simp] theorem State.updateLane_threshMsl (s : State) (rep : Rep) (va : VReg) (n : Nat) : (State.updateLane rep va s n).threshMsl = s.threshMsl := rfl
@[simp] theorem State.updateLane_vcount (s : State) (rep : Rep) (va : VReg) (n : Nat) : (State.updateLane rep va s n).vcount = s.vcount := rfl
@[simp] theorem State.updateLane_acarry (s : State) (rep : Rep) (va : VReg) (n : Nat) : (State.updateLane rep va s n).acarry = s.acarry := rfl
@[simp] theorem State.updateLane_mcarry (s : State) (rep : Rep) (va : VReg) (n : Nat) : (State.updateLane rep va s n).mcarry = s.mcarry := rfl
@[simp] theorem State.updateLane_host (s : State) (rep : Rep) (va : VReg) (n : Nat) : (State.updateLane rep va s n).host = s.host := rfl
@[simp] theorem State.updateLane_hostData (s : State) (rep : Rep) (va : VReg) (n : Nat) : (State.updateLane rep va s n).hostData = s.hostData := rfl
@[simp] theorem State.updateLane_format (s : State) (rep : Rep) (va : VReg) (n : Nat) : (State.updateLane rep va s n).format = s.format := rfl
@[simp] theorem State.updateLane_sregAt (s : State) (rep : Rep) (va : VReg) (n : Nat) (q : SReg) : (State.updateLane rep va s n).sregAt q = s.sregAt q := rfl
@[simp] theorem State.updateLane_vregAt (s : State) (rep : Rep) (va : VReg) (n : Nat) (q : VReg) : (State.updateLane rep va s n).vregAt q = s.vregAt q := rfl
@[simp] theorem State.updateLane_laneAt (s : State) (rep : Rep) (va : VReg) (n : Nat) (q : VReg) (m : Nat) : (State.updateLane rep va s n).laneAt q m = s.laneAt q m := rfl
@[simp] theorem State.updateLane_inplayAt (s : State) (rep : Rep) (va : VReg) (n : Nat) (g : Nat) : (State.updateLane rep va s n).inplayAt g = s.inplayAt g := rfl

/-! ### `writeRaw` -/

@[simp] theorem State.writeRaw_params (s : State) (x : Int) : (s.writeRaw x).params = s.params := rfl
@[simp] theorem State.writeRaw_sregs (s : State) (x : Int) : (s.writeRaw x).sregs = s.sregs := rfl
@[simp] theorem State.writeRaw_vregs (s : State) (x : Int) : (s.writeRaw x).vregs = s.vregs := rfl
@[simp] theorem State.writeRaw_inplay (s : State) (x : Int) : (s.writeRaw x).inplay = s.inplay := rfl
@[simp] theorem State.writeRaw_done (s : State) (x : Int) : (s.writeRaw x).done = s.done := rfl
@[simp] theorem State.writeRaw_esc (s : State) (x : Int) : (s.writeRaw x).esc = s.esc := rfl
@[simp] theorem State.writeRaw_count (s : State) (x : Int) : (s.writeRaw x).count = s.count := rfl
@[simp] theorem State.writeRaw_raw (s : State) (x : Int) : (s.writeRaw x).raw = rawOf x.natAbs := rfl
@[simp] theorem State.writeRaw_rawExp (s : State) (x : Int) : (s.writeRaw x).rawExp = BitVec.ofInt 32 (-(s.format.f : Int)) := rfl
@[simp] theorem State.writeRaw_rawSign (s : State) (x : Int) : (s.writeRaw x).rawSign = decide (0 ≤ x) := rfl
@[simp] theorem State.writeRaw_fie (s : State) (x : Int) : (s.writeRaw x).fie = s.fie := rfl
@[simp] theorem State.writeRaw_die (s : State) (x : Int) : (s.writeRaw x).die = s.die := rfl
@[simp] theorem State.writeRaw_configured (s : State) (x : Int) : (s.writeRaw x).configured = s.configured := rfl
@[simp] theorem State.writeRaw_ge (s : State) (x : Int) : (s.writeRaw x).ge = s.ge := rfl
@[simp] theorem State.writeRaw_cmp (s : State) (x : Int) : (s.writeRaw x).cmp = s.cmp := rfl
@[simp] theorem State.writeRaw_valid (s : State) (x : Int) : (s.writeRaw x).valid = s.valid := rfl
@[simp] theorem State.writeRaw_dropped (s : State) (x : Int) : (s.writeRaw x).dropped = s.dropped := rfl
@[simp] theorem State.writeRaw_buserr (s : State) (x : Int) : (s.writeRaw x).buserr = s.buserr := rfl
@[simp] theorem State.writeRaw_faultCause (s : State) (x : Int) : (s.writeRaw x).faultCause = s.faultCause := rfl
@[simp] theorem State.writeRaw_faultV (s : State) (x : Int) : (s.writeRaw x).faultV = s.faultV := rfl
@[simp] theorem State.writeRaw_faultCmd (s : State) (x : Int) : (s.writeRaw x).faultCmd = s.faultCmd := rfl
@[simp] theorem State.writeRaw_faultLane (s : State) (x : Int) : (s.writeRaw x).faultLane = s.faultLane := rfl
@[simp] theorem State.writeRaw_faultSeq (s : State) (x : Int) : (s.writeRaw x).faultSeq = s.faultSeq := rfl
@[simp] theorem State.writeRaw_cmdcnt (s : State) (x : Int) : (s.writeRaw x).cmdcnt = s.cmdcnt := rfl
@[simp] theorem State.writeRaw_res (s : State) (x : Int) : (s.writeRaw x).res = s.res := rfl
@[simp] theorem State.writeRaw_cfgBbp (s : State) (x : Int) : (s.writeRaw x).cfgBbp = s.cfgBbp := rfl
@[simp] theorem State.writeRaw_cfgFrac (s : State) (x : Int) : (s.writeRaw x).cfgFrac = s.cfgFrac := rfl
@[simp] theorem State.writeRaw_cfgThresh (s : State) (x : Int) : (s.writeRaw x).cfgThresh = s.cfgThresh := rfl
@[simp] theorem State.writeRaw_cfgVcount (s : State) (x : Int) : (s.writeRaw x).cfgVcount = s.cfgVcount := rfl
@[simp] theorem State.writeRaw_target (s : State) (x : Int) : (s.writeRaw x).target = s.target := rfl
@[simp] theorem State.writeRaw_fmtI (s : State) (x : Int) : (s.writeRaw x).fmtI = s.fmtI := rfl
@[simp] theorem State.writeRaw_fmtF (s : State) (x : Int) : (s.writeRaw x).fmtF = s.fmtF := rfl
@[simp] theorem State.writeRaw_fmtL (s : State) (x : Int) : (s.writeRaw x).fmtL = s.fmtL := rfl
@[simp] theorem State.writeRaw_fmtT (s : State) (x : Int) : (s.writeRaw x).fmtT = s.fmtT := rfl
@[simp] theorem State.writeRaw_threshMsl (s : State) (x : Int) : (s.writeRaw x).threshMsl = s.threshMsl := rfl
@[simp] theorem State.writeRaw_vcount (s : State) (x : Int) : (s.writeRaw x).vcount = s.vcount := rfl
@[simp] theorem State.writeRaw_acarry (s : State) (x : Int) : (s.writeRaw x).acarry = s.acarry := rfl
@[simp] theorem State.writeRaw_mcarry (s : State) (x : Int) : (s.writeRaw x).mcarry = s.mcarry := rfl
@[simp] theorem State.writeRaw_host (s : State) (x : Int) : (s.writeRaw x).host = s.host := rfl
@[simp] theorem State.writeRaw_hostData (s : State) (x : Int) : (s.writeRaw x).hostData = s.hostData := rfl
@[simp] theorem State.writeRaw_format (s : State) (x : Int) : (s.writeRaw x).format = s.format := rfl
@[simp] theorem State.writeRaw_sregAt (s : State) (x : Int) (q : SReg) : (s.writeRaw x).sregAt q = s.sregAt q := rfl
@[simp] theorem State.writeRaw_vregAt (s : State) (x : Int) (q : VReg) : (s.writeRaw x).vregAt q = s.vregAt q := rfl
@[simp] theorem State.writeRaw_laneAt (s : State) (x : Int) (q : VReg) (m : Nat) : (s.writeRaw x).laneAt q m = s.laneAt q m := rfl
@[simp] theorem State.writeRaw_inplayAt (s : State) (x : Int) (g : Nat) : (s.writeRaw x).inplayAt g = s.inplayAt g := rfl
@[simp] theorem State.writeRaw_doneAt (s : State) (x : Int) (m : Nat) : (s.writeRaw x).doneAt m = s.doneAt m := rfl
@[simp] theorem State.writeRaw_escAt (s : State) (x : Int) (m : Nat) : (s.writeRaw x).escAt m = s.escAt m := rfl
@[simp] theorem State.writeRaw_countAt (s : State) (x : Int) (m : Nat) : (s.writeRaw x).countAt m = s.countAt m := rfl
@[simp] theorem State.writeRaw_isActive (s : State) (x : Int) (m : Nat) : (s.writeRaw x).isActive m = s.isActive m := rfl
@[simp] theorem State.writeRaw_activeLanes (s : State) (x : Int) : (s.writeRaw x).activeLanes = s.activeLanes := rfl

/-! ### `busError` -/

@[simp] theorem State.busError_params (s : State) : (s.busError).params = s.params := rfl
@[simp] theorem State.busError_sregs (s : State) : (s.busError).sregs = s.sregs := rfl
@[simp] theorem State.busError_vregs (s : State) : (s.busError).vregs = s.vregs := rfl
@[simp] theorem State.busError_inplay (s : State) : (s.busError).inplay = s.inplay := rfl
@[simp] theorem State.busError_done (s : State) : (s.busError).done = s.done := rfl
@[simp] theorem State.busError_esc (s : State) : (s.busError).esc = s.esc := rfl
@[simp] theorem State.busError_count (s : State) : (s.busError).count = s.count := rfl
@[simp] theorem State.busError_raw (s : State) : (s.busError).raw = s.raw := rfl
@[simp] theorem State.busError_rawExp (s : State) : (s.busError).rawExp = s.rawExp := rfl
@[simp] theorem State.busError_rawSign (s : State) : (s.busError).rawSign = s.rawSign := rfl
@[simp] theorem State.busError_fie (s : State) : (s.busError).fie = s.fie := rfl
@[simp] theorem State.busError_die (s : State) : (s.busError).die = s.die := rfl
@[simp] theorem State.busError_configured (s : State) : (s.busError).configured = s.configured := rfl
@[simp] theorem State.busError_ge (s : State) : (s.busError).ge = s.ge := rfl
@[simp] theorem State.busError_cmp (s : State) : (s.busError).cmp = s.cmp := rfl
@[simp] theorem State.busError_valid (s : State) : (s.busError).valid = s.valid := rfl
@[simp] theorem State.busError_dropped (s : State) : (s.busError).dropped = s.dropped := rfl
@[simp] theorem State.busError_buserr (s : State) : (s.busError).buserr = true := rfl
@[simp] theorem State.busError_faultCause (s : State) : (s.busError).faultCause = s.faultCause := rfl
@[simp] theorem State.busError_faultV (s : State) : (s.busError).faultV = s.faultV := rfl
@[simp] theorem State.busError_faultCmd (s : State) : (s.busError).faultCmd = s.faultCmd := rfl
@[simp] theorem State.busError_faultLane (s : State) : (s.busError).faultLane = s.faultLane := rfl
@[simp] theorem State.busError_faultSeq (s : State) : (s.busError).faultSeq = s.faultSeq := rfl
@[simp] theorem State.busError_cmdcnt (s : State) : (s.busError).cmdcnt = s.cmdcnt := rfl
@[simp] theorem State.busError_res (s : State) : (s.busError).res = s.res := rfl
@[simp] theorem State.busError_cfgBbp (s : State) : (s.busError).cfgBbp = s.cfgBbp := rfl
@[simp] theorem State.busError_cfgFrac (s : State) : (s.busError).cfgFrac = s.cfgFrac := rfl
@[simp] theorem State.busError_cfgThresh (s : State) : (s.busError).cfgThresh = s.cfgThresh := rfl
@[simp] theorem State.busError_cfgVcount (s : State) : (s.busError).cfgVcount = s.cfgVcount := rfl
@[simp] theorem State.busError_target (s : State) : (s.busError).target = s.target := rfl
@[simp] theorem State.busError_fmtI (s : State) : (s.busError).fmtI = s.fmtI := rfl
@[simp] theorem State.busError_fmtF (s : State) : (s.busError).fmtF = s.fmtF := rfl
@[simp] theorem State.busError_fmtL (s : State) : (s.busError).fmtL = s.fmtL := rfl
@[simp] theorem State.busError_fmtT (s : State) : (s.busError).fmtT = s.fmtT := rfl
@[simp] theorem State.busError_threshMsl (s : State) : (s.busError).threshMsl = s.threshMsl := rfl
@[simp] theorem State.busError_vcount (s : State) : (s.busError).vcount = s.vcount := rfl
@[simp] theorem State.busError_acarry (s : State) : (s.busError).acarry = s.acarry := rfl
@[simp] theorem State.busError_mcarry (s : State) : (s.busError).mcarry = s.mcarry := rfl
@[simp] theorem State.busError_host (s : State) : (s.busError).host = s.host := rfl
@[simp] theorem State.busError_hostData (s : State) : (s.busError).hostData = s.hostData := rfl
@[simp] theorem State.busError_format (s : State) : (s.busError).format = s.format := rfl
@[simp] theorem State.busError_sregAt (s : State)  (q : SReg) : (s.busError).sregAt q = s.sregAt q := rfl
@[simp] theorem State.busError_vregAt (s : State)  (q : VReg) : (s.busError).vregAt q = s.vregAt q := rfl
@[simp] theorem State.busError_laneAt (s : State)  (q : VReg) (m : Nat) : (s.busError).laneAt q m = s.laneAt q m := rfl
@[simp] theorem State.busError_inplayAt (s : State)  (g : Nat) : (s.busError).inplayAt g = s.inplayAt g := rfl
@[simp] theorem State.busError_doneAt (s : State)  (m : Nat) : (s.busError).doneAt m = s.doneAt m := rfl
@[simp] theorem State.busError_escAt (s : State)  (m : Nat) : (s.busError).escAt m = s.escAt m := rfl
@[simp] theorem State.busError_countAt (s : State)  (m : Nat) : (s.busError).countAt m = s.countAt m := rfl
@[simp] theorem State.busError_isActive (s : State)  (m : Nat) : (s.busError).isActive m = s.isActive m := rfl
@[simp] theorem State.busError_activeLanes (s : State) : (s.busError).activeLanes = s.activeLanes := rfl

end Sys2Proof.Machine
end

