-- ==== Sys2Proof/Laws/Ops.lean ====
section
/-! SUPPORT. What each shared operation can do, said once: the register and lane writes, command execution (R310), the scalar
result, the lane loop and the vector procedure (R241), and the flag updates. -/

namespace Sys2Proof.Machine

/-! ### Writing a Number -/

/-- A written cell is the new one below L, and the old one elsewhere. -/
theorem Number.cell_overwrite (l k : Nat) (old new : Number) :
    (old.overwrite l new).cell k = if k < l ∧ k < old.cells.length then new.cell k else old.cell k := by
  unfold Number.overwrite Number.cell
  by_cases h : k < old.cells.length
  · by_cases h' : k < l <;> simp [h, h']
  · simp [h]

@[simp] theorem Number.sign_overwrite (l : Nat) (old new : Number) : (old.overwrite l new).sign = new.sign := rfl

@[simp] theorem Number.length_overwrite (l : Nat) (old new : Number) :
    (old.overwrite l new).cells.length = old.cells.length := by simp [Number.overwrite]

@[simp] theorem State.sregAt_writeSreg_self (s : State) (r : SReg) (a : Number) :
    (s.writeSreg r a).sregAt r = (s.sregAt r).overwrite s.format.l a := by
  simp [State.writeSreg, State.sregAt]

theorem State.sregAt_writeSreg_of_ne (s : State) {r q : SReg} (h : q ≠ r) (a : Number) :
    (s.writeSreg r a).sregAt q = s.sregAt q := by
  have h' : (r : Nat) ≠ q := fun e => h (Fin.ext e.symm)
  simp [State.writeSreg, State.sregAt, h']

@[simp] theorem State.vregAt_writeLane_self (s : State) (v : VReg) (n : Nat) (a : Number) :
    (s.writeLane v n a).vregAt v = (s.vregAt v).modify n (Number.overwrite s.format.l · a) := by
  simp [State.writeLane, State.vregAt]

theorem State.vregAt_writeLane_of_ne (s : State) {v q : VReg} (h : q ≠ v) (n : Nat) (a : Number) :
    (s.writeLane v n a).vregAt q = s.vregAt q := by
  have h' : (v : Nat) ≠ q := fun e => h (Fin.ext e.symm)
  simp [State.writeLane, State.vregAt, h']

/-- Reading a lane after a lane write of the same container: the written lane holds the Number, every other is as it was. -/
theorem State.laneAt_writeLane (s : State) (v : VReg) (n m : Nat) (a : Number) :
    (s.writeLane v n a).laneAt v m =
      if m = n ∧ n < (s.vregAt v).length then (s.laneAt v m).overwrite s.format.l a else s.laneAt v m := by
  unfold State.laneAt
  simp only [State.vregAt_writeLane_self, List.getD_eq_getElem?_getD, List.getElem?_modify]
  by_cases hn : n = m
  · subst hn
    by_cases hl : n < (s.vregAt v).length <;> simp [hl]
  · have : ¬ m = n := fun e => hn e.symm
    simp [hn, this]

theorem State.laneAt_writeLane_of_ne (s : State) {v q : VReg} (h : q ≠ v) (n m : Nat) (a : Number) :
    (s.writeLane v n a).laneAt q m = s.laneAt q m := by
  simp [State.laneAt, State.vregAt_writeLane_of_ne s h]

theorem State.doneAt_markDone (s : State) (n m : Nat) :
    (s.markDone n).doneAt m = (decide (m = n ∧ n < s.done.length) || s.doneAt m) := by
  unfold State.doneAt State.markDone
  simp only [List.getD_eq_getElem?_getD, List.getElem?_set]
  by_cases hn : n = m
  · subst hn
    by_cases hl : n < s.done.length <;> simp [hl]
  · have : ¬ m = n := fun e => hn e.symm
    simp [hn, this]

/-! ### Command execution (R310) -/

/-- Everything command execution can do. -/
theorem runCommand_cases {nc : Bool} {w : Word} {rule : State → Except Raised State} {s t : State}
    (h : runCommand nc w rule s = .next t) :
    (s.faultV = true ∧ t = s.drop) ∨
    (s.faultV = false ∧ nc = true ∧ s.configured = false ∧ t = s.faulted w (.unlaned .notConfigured)) ∨
    (s.faultV = false ∧ (nc = true → s.configured = true) ∧ ∃ r, rule s.accept = .error r ∧ t = s.faulted w r) ∨
    (s.faultV = false ∧ (nc = true → s.configured = true) ∧ rule s.accept = .ok t) := by
  unfold runCommand at h
  cases hv : s.faultV
  · cases hc : s.configured <;> cases nc <;> simp [hv, hc] at h ⊢ <;> first
      | exact h.symm
      | (cases hr : rule s.accept <;> simp [hr] at h ⊢
         · exact h.symm
         · exact h)
  · simp [hv] at h
    simp [h]

/-- A command is never a stop: it answers a next state. -/
theorem runCommand_next (nc : Bool) (w : Word) (rule : State → Except Raised State) (s : State) :
    ∃ t, runCommand nc w rule s = .next t := by
  unfold runCommand
  split
  · exact ⟨_, rfl⟩
  · split
    · exact ⟨_, rfl⟩
    · split <;> exact ⟨_, rfl⟩

/-- A command that is not turned away and whose rule completes. -/
theorem runCommand_ok {nc : Bool} {w : Word} {rule : State → Except Raised State} {s t : State}
    (hv : s.faultV = false) (hc : nc = true → s.configured = true) (h : rule s.accept = .ok t) :
    runCommand nc w rule s = .next t := by
  unfold runCommand
  cases nc <;> simp_all

/-- A command that is not turned away and whose rule raises a fault. -/
theorem runCommand_error {nc : Bool} {w : Word} {rule : State → Except Raised State} {s : State} {r : Raised}
    (hv : s.faultV = false) (hc : nc = true → s.configured = true) (h : rule s.accept = .error r) :
    runCommand nc w rule s = .next (s.faulted w r) := by
  unfold runCommand
  cases nc <;> simp_all

/-! ### Results -/

/-- Everything `scalarResult` can do. -/
theorem scalarResult_ok {sd : SReg} {x : Except Cause Result} {s t : State} (h : scalarResult sd x s = .ok t) :
    ∃ r, x = .ok r ∧ t = (s.writeSreg sd r.value).countResult r := by
  cases x with
  | error c => simp [scalarResult] at h
  | ok r => exact ⟨r, rfl, by simpa [scalarResult] using h.symm⟩

/-- `loadScaled` writes the encoding of an integer in range. -/
theorem loadScaled_ok {rep : Rep} {sd : SReg} {x : Int} {c : Cause} {s t : State} (h : loadScaled rep sd x c s = .ok t) :
    inrangeRep s.format rep x = true ∧ t = s.writeSreg sd (encRep s.format rep x) := by
  unfold loadScaled at h
  split at h
  · exact ⟨‹_›, by simpa using h.symm⟩
  · simp at h

/-- What counting a result changes: the two counters, and nothing else. -/
theorem State.countResult_eq (s : State) (r : Result) :
    s.countResult r =
      { s with mcarry := s.mcarry + BitVec.ofNat 32 r.mcarries
               acarry := if r.saturated then s.acarry + 1 else s.acarry } := by
  unfold State.countResult
  cases r.saturated <;> rfl

/-- The lane loop completes exactly when every lane's operation does, in order. -/
theorem runLanes_ok {op : Nat → Except Cause Result} {ns : List Nat} {rs : List (Nat × Result)}
    (h : runLanes op ns = .ok rs) : rs.map Prod.fst = ns ∧ ∀ p ∈ rs, op p.1 = .ok p.2 := by
  induction ns generalizing rs with
  | nil => simp_all [runLanes]
  | cons n ns ih =>
    cases hop : op n with
    | error c => simp [runLanes, hop] at h
    | ok r =>
      cases hrec : runLanes op ns with
      | error e => simp [runLanes, hop, hrec] at h
      | ok rs' =>
        obtain rfl : (n, r) :: rs' = rs := by simpa [runLanes, hop, hrec] using h
        obtain ⟨h1, h2⟩ := ih hrec
        refine ⟨by simp [h1], ?_⟩
        intro p hp
        rcases List.mem_cons.1 hp with rfl | hp
        · exact hop
        · exact h2 p hp

/-- A failing lane loop raises the first failing lane's cause, at that lane (R314). -/
theorem runLanes_error {op : Nat → Except Cause Result} {ns : List Nat} {e : Raised} (h : runLanes op ns = .error e) :
    ∃ pre n post c, ns = pre ++ n :: post ∧ (∀ m ∈ pre, ∃ r, op m = .ok r) ∧ op n = .error c ∧ e = .atLane c n := by
  induction ns with
  | nil => simp [runLanes] at h
  | cons n ns ih =>
    cases hop : op n with
    | error c => exact ⟨[], n, ns, c, rfl, by simp, hop, by simpa [runLanes, hop] using h.symm⟩
    | ok r =>
      cases hrec : runLanes op ns with
      | ok rs => simp [runLanes, hop, hrec] at h
      | error e' =>
        obtain rfl : e' = e := by simpa [runLanes, hop, hrec] using h
        obtain ⟨pre, m, post, c, h1, h2, h3, h4⟩ := ih hrec
        refine ⟨n :: pre, m, post, c, by simp [h1], ?_, h3, h4⟩
        intro k hk
        rcases List.mem_cons.1 hk with rfl | hk
        · exact ⟨r, hop⟩
        · exact h2 k hk

/-- Everything the vector procedure can do. -/
theorem vectorResult_ok {vd : VReg} {op : Nat → Except Cause Result} {s t : State} (h : vectorResult vd op s = .ok t) :
    ∃ rs, runLanes op s.activeLanes = .ok rs ∧ t = rs.foldl (State.commitLane vd) s := by
  unfold vectorResult at h
  split at h
  · simp at h
  · next rs hrs => exact ⟨rs, hrs, by simpa using h.symm⟩

/-- The validation loop completes exactly when every lane is valid. -/
theorem validateLanes_ok (f : Format) (rep : Rep) (lane : Nat → Number) (ns : List Nat) :
    validateLanes f rep lane ns = .ok () ↔ ∀ n ∈ ns, validRep f rep (lane n) = true := by
  induction ns with
  | nil => simp [validateLanes]
  | cons n ns ih =>
    unfold validateLanes
    cases h : validRep f rep (lane n) <;> simp [h, ih]

/-- A failing validation loop raises `OPERAND_INVALID` at the lowest invalid lane. -/
theorem validateLanes_error {f : Format} {rep : Rep} {lane : Nat → Number} {ns : List Nat} {e : Raised}
    (h : validateLanes f rep lane ns = .error e) :
    ∃ pre n post, ns = pre ++ n :: post ∧ (∀ m ∈ pre, validRep f rep (lane m) = true) ∧
      validRep f rep (lane n) = false ∧ e = .atLane .operandInvalid n := by
  induction ns with
  | nil => simp [validateLanes] at h
  | cons n ns ih =>
    unfold validateLanes at h
    split at h
    · next hv =>
      obtain ⟨pre, m, post, h1, h2, h3, h4⟩ := ih h
      refine ⟨n :: pre, m, post, by simp [h1], ?_, h3, h4⟩
      intro k hk
      rcases List.mem_cons.1 hk with rfl | hk
      · exact hv
      · exact h2 k hk
    · next hv => exact ⟨[], n, ns, rfl, by simp, by simpa using hv, by simpa using h.symm⟩

/-! ### Lanes and activity -/

/-- Lane n is active: below `VCOUNT`, its group in play, not done (R240). -/
theorem State.isActive_iff (s : State) (n : Nat) :
    s.isActive n = true ↔ n < s.vcount.toNat ∧ s.inplayAt (n / 4) = true ∧ s.doneAt n = false := by
  simp [State.isActive, and_assoc]

/-- The active lanes, as a set (R240, R241). -/
theorem State.mem_activeLanes (s : State) (n : Nat) : n ∈ s.activeLanes ↔ s.isActive n = true := by
  simp only [State.activeLanes, List.mem_filter, List.mem_range]
  exact ⟨And.right, fun h => ⟨((State.isActive_iff s n).1 h).1, h⟩⟩

/-- No lane is listed twice. -/
theorem State.nodup_activeLanes (s : State) : s.activeLanes.Nodup :=
  List.Nodup.filter _ List.nodup_range

end Sys2Proof.Machine
end

