-- ==== Sys2Proof/Laws/Numbers.lean ====
section
/-! SUPPORT. Small laws of the numeric functions: sums, digits, bytes, and the shift of `SPLIT`. -/

namespace Sys2Proof.Machine

@[simp] theorem sumBelow_zero (g : Nat → Nat) : sumBelow 0 g = 0 := rfl

theorem sumBelow_succ (n : Nat) (g : Nat → Nat) : sumBelow (n + 1) g = sumBelow n g + g n := rfl

/-- A sum reads its terms below n only. -/
theorem sumBelow_congr {n : Nat} {g h : Nat → Nat} (e : ∀ k, k < n → g k = h k) : sumBelow n g = sumBelow n h := by
  induction n with
  | zero => rfl
  | succ n ih => rw [sumBelow_succ, sumBelow_succ, ih fun k hk => e k (by omega), e n (by omega)]

theorem natDigit_lt (b u k : Nat) : natDigit b u k < 2 ^ b := Nat.mod_lt _ (by positivity)

theorem digit_lt (f : Format) (a : Number) (k : Nat) : digit f a k < 2 ^ f.b := Nat.mod_lt _ (by positivity)

@[simp] theorem weightedSum_nil (b : Nat) : weightedSum b [] = 0 := rfl

@[simp] theorem weightedSum_cons (b r : Nat) (rs : List Nat) :
    weightedSum b (r :: rs) = r + 2 ^ b * weightedSum b rs := rfl

/-- The bytes of a value, read back, are the value modulo 2^(8n) (R82). -/
theorem leValue_leBytes (n v : Nat) : leValue (leBytes n v) = v % 2 ^ (8 * n) := by
  induction n generalizing v with
  | zero => simp [leBytes, leValue, Nat.mod_one]
  | succ n ih =>
    simp only [leBytes, leValue, ih, BitVec.toNat_ofNat]
    rw [show 8 * (n + 1) = 8 + 8 * n by ring, pow_add, Nat.mod_mul]

@[simp] theorem length_leBytes (n v : Nat) : (leBytes n v).length = n := by
  induction n generalizing v with
  | zero => rfl
  | succ n ih => simp [leBytes, ih]

/-- The capped shift of `splitMagnitude` is the exact one of R172, but where both are out of every range (T ≥ 1). -/
theorem splitMagnitude_inrange (f : Format) (ht : 1 ≤ f.t) (rep : Rep) (r : Nat) (shift : Int) :
    splitMagnitude f.t r shift = alignedMagnitude r shift ∨
      ∀ m ∈ [splitMagnitude f.t r shift, alignedMagnitude r shift],
        inrangeRep f rep (m : Int) = false ∧ inrangeRep f rep (-(m : Int)) = false := by
  unfold splitMagnitude alignedMagnitude
  by_cases h0 : 0 ≤ shift
  · simp only [h0, if_true]
    by_cases hs : shift.toNat ≤ f.t
    · left; rw [min_eq_left hs]
    · rcases Nat.eq_zero_or_pos r with rfl | hr
      · left; simp
      · right
        have big : ∀ m : Nat, 2 ^ f.t ≤ m → inrangeRep f rep (m : Int) = false ∧ inrangeRep f rep (-(m : Int)) = false := by
          intro m hm
          have h1 : (2 ^ f.t : Int) ≤ m := by exact_mod_cast hm
          have h2 : (2 : Int) ^ f.t = 2 * 2 ^ (f.t - 1) := by
            rw [← pow_succ']; congr 1; omega
          have h3 : (0 : Int) < 2 ^ (f.t - 1) := by positivity
          cases rep <;> simp [inrangeRep, inrangeSM, inrange2C] <;> constructor <;> intros <;> omega
        intro m hm
        have hm' : 2 ^ f.t ≤ m := by
          rcases List.mem_cons.1 hm with rfl | hm
          · rw [min_eq_right (by omega)]; exact Nat.le_mul_of_pos_left _ hr
          · obtain rfl := List.mem_singleton.1 hm
            exact le_trans (Nat.pow_le_pow_right (by norm_num) (by omega)) (Nat.le_mul_of_pos_left _ hr)
        exact big m hm'
  · left; simp [h0, Nat.shiftRight_eq_div_pow]

end Sys2Proof.Machine
end

