-- ==== Sys2Proof/Laws/PerInstr.lean ====
section
/-! SUPPORT. Facts about each command as syntax, one lemma per constructor. -/

namespace Sys2Proof.Laws

/-- The opcode of a command's row in R115. -/
def opcodeNumber : Instr → Nat
  | .nop => 0x00
  | .construct => 0x01
  | .orst => 0x02
  | .upddone _ _ => 0x03
  | .mov _ _ => 0x10
  | .ldz _ => 0x11
  | .ldmax _ _ => 0x12
  | .ldi _ _ _ => 0x13
  | .add _ _ _ _ => 0x14
  | .sub _ _ _ _ => 0x15
  | .mul _ _ _ _ => 0x16
  | .sqr _ _ _ => 0x17
  | .muli _ _ _ _ => 0x18
  | .cmpt _ _ => 0x19
  | .cmpm _ _ => 0x1A
  | .totc _ _ => 0x20
  | .fromtc _ _ => 0x21
  | .split _ _ => 0x22
  | .join _ _ => 0x23
  | .limblen _ => 0x24
  | .tzlimb _ => 0x25
  | .chk _ _ => 0x26
  | .vmov _ _ => 0x30
  | .vldz _ => 0x31
  | .vbcast _ _ => 0x32
  | .vext _ _ _ => 0x33
  | .vins _ _ _ => 0x34
  | .vadd _ _ _ _ => 0x35
  | .vsub _ _ _ _ => 0x36
  | .vmul _ _ _ _ => 0x37
  | .vsqr _ _ _ => 0x38
  | .vmuli _ _ _ _ => 0x39
  | .vcmpt _ _ => 0x3A

/-- The word of a command holds its row's opcode, zero reserved bits [11:9], and so a well-formed low half (R111, R115). -/
def OpcodeByte.Statement (i : Instr) : Prop := opcOf (encode i) = opcodeNumber i ∧ bits (encode i) 11 9 = 0

theorem OpcodeByte.ofWordR (opc rep rd ra rb : Nat) (ho : opc < 256) (hr : rep < 2) : opcOf (wordR opc rep rd ra rb) = opc ∧ bits (wordR opc rep rd ra rb) 11 9 = 0 := by
  simp only [opcOf, bits, wordR, BitVec.toNat_ofNat]
  omega

theorem OpcodeByte.ofWordI (opc rep rd ra : Nat) (imm : Int) (ho : opc < 256) (hr : rep < 2) : opcOf (wordI opc rep rd ra imm) = opc ∧ bits (wordI opc rep rd ra imm) 11 9 = 0 := by
  simp only [opcOf, bits, wordI, BitVec.toNat_ofNat]
  omega

theorem repBit_lt (rep : Rep) : repBit rep < 2 := by cases rep <;> decide

theorem OpcodeByte.nop : OpcodeByte.Statement (.nop) :=
  OpcodeByte.ofWordR _ _ _ _ _ (by omega) (by omega)

theorem OpcodeByte.construct : OpcodeByte.Statement (.construct) :=
  OpcodeByte.ofWordR _ _ _ _ _ (by omega) (by omega)

theorem OpcodeByte.orst : OpcodeByte.Statement (.orst) :=
  OpcodeByte.ofWordR _ _ _ _ _ (by omega) (by omega)

theorem OpcodeByte.upddone (rep : Rep) (va : VReg) : OpcodeByte.Statement (.upddone rep va) :=
  OpcodeByte.ofWordR _ _ _ _ _ (by omega) (repBit_lt rep)

theorem OpcodeByte.mov (sd : SReg) (sa : SReg) : OpcodeByte.Statement (.mov sd sa) :=
  OpcodeByte.ofWordR _ _ _ _ _ (by omega) (by omega)

theorem OpcodeByte.ldz (sd : SReg) : OpcodeByte.Statement (.ldz sd) :=
  OpcodeByte.ofWordR _ _ _ _ _ (by omega) (by omega)

theorem OpcodeByte.ldmax (rep : Rep) (sd : SReg) : OpcodeByte.Statement (.ldmax rep sd) :=
  OpcodeByte.ofWordR _ _ _ _ _ (by omega) (repBit_lt rep)

theorem OpcodeByte.ldi (rep : Rep) (sd : SReg) (k : Int) : OpcodeByte.Statement (.ldi rep sd k) :=
  OpcodeByte.ofWordI _ _ _ _ _ (by omega) (repBit_lt rep)

theorem OpcodeByte.add (rep : Rep) (sd : SReg) (sa : SReg) (sb : SReg) : OpcodeByte.Statement (.add rep sd sa sb) :=
  OpcodeByte.ofWordR _ _ _ _ _ (by omega) (repBit_lt rep)

theorem OpcodeByte.sub (rep : Rep) (sd : SReg) (sa : SReg) (sb : SReg) : OpcodeByte.Statement (.sub rep sd sa sb) :=
  OpcodeByte.ofWordR _ _ _ _ _ (by omega) (repBit_lt rep)

theorem OpcodeByte.mul (rep : Rep) (sd : SReg) (sa : SReg) (sb : SReg) : OpcodeByte.Statement (.mul rep sd sa sb) :=
  OpcodeByte.ofWordR _ _ _ _ _ (by omega) (repBit_lt rep)

theorem OpcodeByte.sqr (rep : Rep) (sd : SReg) (sa : SReg) : OpcodeByte.Statement (.sqr rep sd sa) :=
  OpcodeByte.ofWordR _ _ _ _ _ (by omega) (repBit_lt rep)

theorem OpcodeByte.muli (rep : Rep) (sd : SReg) (sa : SReg) (k : Int) : OpcodeByte.Statement (.muli rep sd sa k) :=
  OpcodeByte.ofWordI _ _ _ _ _ (by omega) (repBit_lt rep)

theorem OpcodeByte.cmpt (rep : Rep) (sa : SReg) : OpcodeByte.Statement (.cmpt rep sa) :=
  OpcodeByte.ofWordR _ _ _ _ _ (by omega) (repBit_lt rep)

theorem OpcodeByte.cmpm (sa : SReg) (sb : SReg) : OpcodeByte.Statement (.cmpm sa sb) :=
  OpcodeByte.ofWordR _ _ _ _ _ (by omega) (by omega)

theorem OpcodeByte.totc (sd : SReg) (sa : SReg) : OpcodeByte.Statement (.totc sd sa) :=
  OpcodeByte.ofWordR _ _ _ _ _ (by omega) (by omega)

theorem OpcodeByte.fromtc (sd : SReg) (sa : SReg) : OpcodeByte.Statement (.fromtc sd sa) :=
  OpcodeByte.ofWordR _ _ _ _ _ (by omega) (by omega)

theorem OpcodeByte.split (rep : Rep) (sd : SReg) : OpcodeByte.Statement (.split rep sd) :=
  OpcodeByte.ofWordR _ _ _ _ _ (by omega) (repBit_lt rep)

theorem OpcodeByte.join (rep : Rep) (sa : SReg) : OpcodeByte.Statement (.join rep sa) :=
  OpcodeByte.ofWordR _ _ _ _ _ (by omega) (repBit_lt rep)

theorem OpcodeByte.limblen (sa : SReg) : OpcodeByte.Statement (.limblen sa) :=
  OpcodeByte.ofWordR _ _ _ _ _ (by omega) (by omega)

theorem OpcodeByte.tzlimb (sa : SReg) : OpcodeByte.Statement (.tzlimb sa) :=
  OpcodeByte.ofWordR _ _ _ _ _ (by omega) (by omega)

theorem OpcodeByte.chk (rep : Rep) (sa : SReg) : OpcodeByte.Statement (.chk rep sa) :=
  OpcodeByte.ofWordR _ _ _ _ _ (by omega) (repBit_lt rep)

theorem OpcodeByte.vmov (vd : VReg) (va : VReg) : OpcodeByte.Statement (.vmov vd va) :=
  OpcodeByte.ofWordR _ _ _ _ _ (by omega) (by omega)

theorem OpcodeByte.vldz (vd : VReg) : OpcodeByte.Statement (.vldz vd) :=
  OpcodeByte.ofWordR _ _ _ _ _ (by omega) (by omega)

theorem OpcodeByte.vbcast (vd : VReg) (sa : SReg) : OpcodeByte.Statement (.vbcast vd sa) :=
  OpcodeByte.ofWordR _ _ _ _ _ (by omega) (by omega)

theorem OpcodeByte.vext (sd : SReg) (va : VReg) (lane : Nat) : OpcodeByte.Statement (.vext sd va lane) :=
  OpcodeByte.ofWordI _ _ _ _ _ (by omega) (by omega)

theorem OpcodeByte.vins (vd : VReg) (sa : SReg) (lane : Nat) : OpcodeByte.Statement (.vins vd sa lane) :=
  OpcodeByte.ofWordI _ _ _ _ _ (by omega) (by omega)

theorem OpcodeByte.vadd (rep : Rep) (vd : VReg) (va : VReg) (vb : VReg) : OpcodeByte.Statement (.vadd rep vd va vb) :=
  OpcodeByte.ofWordR _ _ _ _ _ (by omega) (repBit_lt rep)

theorem OpcodeByte.vsub (rep : Rep) (vd : VReg) (va : VReg) (vb : VReg) : OpcodeByte.Statement (.vsub rep vd va vb) :=
  OpcodeByte.ofWordR _ _ _ _ _ (by omega) (repBit_lt rep)

theorem OpcodeByte.vmul (rep : Rep) (vd : VReg) (va : VReg) (vb : VReg) : OpcodeByte.Statement (.vmul rep vd va vb) :=
  OpcodeByte.ofWordR _ _ _ _ _ (by omega) (repBit_lt rep)

theorem OpcodeByte.vsqr (rep : Rep) (vd : VReg) (va : VReg) : OpcodeByte.Statement (.vsqr rep vd va) :=
  OpcodeByte.ofWordR _ _ _ _ _ (by omega) (repBit_lt rep)

theorem OpcodeByte.vmuli (rep : Rep) (vd : VReg) (va : VReg) (k : Int) : OpcodeByte.Statement (.vmuli rep vd va k) :=
  OpcodeByte.ofWordI _ _ _ _ _ (by omega) (repBit_lt rep)

theorem OpcodeByte.vcmpt (rep : Rep) (va : VReg) : OpcodeByte.Statement (.vcmpt rep va) :=
  OpcodeByte.ofWordR _ _ _ _ _ (by omega) (repBit_lt rep)

end Sys2Proof.Laws
end

