-- ==== Sys2Proof/Laws/Run.lean ====
section
/-! SUPPORT. What following a run can do, said once: steps in sequence, the move a step serves, and the cases of `followRun`. -/

namespace Sys2Proof.Machine

@[simp] theorem stepMany_zero (s : State) : stepMany 0 s = .next s := rfl

/-- One step more at the front. -/
theorem stepMany_succ_of_next {s t : State} (h : step s = .next t) (k : Nat) : stepMany (k + 1) s = stepMany k t := by
  simp [stepMany, h]

/-- The move a step serves is the first of the host's list. -/
theorem step_cons {s : State} {e : HostEvent} {es : List HostEvent} (h : s.host = e :: es) :
    step s = serve e { s with host := es } := by
  simp [step, h]

@[simp] theorem followRun_nil (s : State) : followRun [] s = .abandoned := rfl

@[simp] theorem followRun_reset (es : List HostEvent) (s : State) : followRun (.reset :: es) s = .reset := by
  simp [followRun]

/-- Everything `followRun` does with a move that is no reset and leads to t. -/
theorem followRun_cons {s t : State} {e : HostEvent} {es : List HostEvent} (he : e ≠ .reset)
    (h : step { s with host := e :: es } = .next t) :
    followRun (e :: es) s =
      if t.faultV then .bad (badOutput s t) else if e.isUpddone && t.ipempty then .well t.runOutput else followRun es t := by
  simp [followRun, he, h]

/-- A run begins at an `ORST` and follows the host's moves. -/
theorem State.run_eq_some {s : State} {r : RunEnd} :
    s.run = some r ↔ ∃ e es, s.host = e :: es ∧ e.command? = some .orst ∧ followRun s.host s = r := by
  unfold State.run
  cases hs : s.host with
  | nil => simp
  | cons e es =>
    by_cases h : e.command? = some .orst
    · simp [h]
    · simp only [h, if_false, reduceCtorEq, false_iff]
      rintro ⟨e', es', hc, ho, -⟩
      cases hc
      exact h ho

/-- A run has an output of R285 exactly when it ends well. -/
theorem State.protocolOutput_eq_some {s : State} {o : ProtocolOutput} :
    s.protocolOutput = some o ↔ ∃ out, s.run = some (.well out) ∧ o = { count := out.count, dsum := out.dsum } := by
  unfold State.protocolOutput
  cases s.run with
  | none => simp
  | some r => cases r <;> simp [RunEnd.protocolOutput, eq_comm]

/-- A command write is the write of a word at `COMMAND`, obeying R81. -/
theorem HostEvent.commandWord?_write (offset : BitVec 23) (data : List Byte) :
    (HostEvent.write offset data).commandWord? =
      if accessOk offset data.length && offset == commandOffset then
        some (Sys2Proof.commandWord (BitVec.ofNat 64 (leValue data)))
      else none := rfl

@[simp] theorem HostEvent.commandWord?_read (offset : BitVec 23) (width : Nat) :
    (HostEvent.read offset width).commandWord? = none := rfl

@[simp] theorem HostEvent.commandWord?_reset : HostEvent.reset.commandWord? = none := rfl

end Sys2Proof.Machine
end

