-- ==== Sys2Proof/Tests/Slice0.lean ====
section
/-! SUPPORT. Tests: what `WellFormed` refuses, the words of spec/ decoded, one or two spec examples a command, and for every
statement with premises a concrete case that meets them. Expected values are the examples of spec/ (the rule is named), or
are worked out by hand from the rule named. -/

namespace Sys2Proof.Machine.Tests

/-! ### WellFormed -/

theorem test_wf_ldi_too_large : wellFormed (.ldi .sm 0 2048) = false := by decide
theorem test_wf_ldi_too_small : wellFormed (.ldi .tc 0 (-2049)) = false := by decide
theorem test_wf_muli : wellFormed (.muli .sm 0 0 (-2049)) = false := by decide
theorem test_wf_vmuli : wellFormed (.vmuli .sm 0 0 2048) = false := by decide
theorem test_wf_vext : wellFormed (.vext 0 0 4096) = false := by decide
theorem test_wf_vins : wellFormed (.vins 0 0 4096) = false := by decide

/-! ### Words -/

/-- The command a word decodes to, if it is legal. -/
def legal (w : Word) : Option Instr :=
  match decode w with
  | .ok i => some i
  | .error _ => none

/-- The clause of R116 a word breaks, if it is illegal. -/
def illegal (w : Word) : Option Illegal :=
  match decode w with
  | .ok _ => none
  | .error e => some e

/-- Words of R127 and of the Encoding and Example lines of R160, R163, R282, R283. -/
theorem test_words_control : ∀ e ∈ [((0x00000000 : Word), Instr.nop), (0x00000001, .construct), (0x00000002, .orst),
    (0x00060003, .upddone .sm 6), (0x00070103, .upddone .tc 7)], legal e.1 = some e.2 ∧ encode e.2 = e.1 := by decide

/-- Words of R127, of 41_scalar_engine.md and 95_test_vectors.md, and worked out from R111 and R115. -/
theorem test_words_scalar : ∀ e ∈ [((0x00005010 : Word), Instr.mov 5 0), (0x00004011, .ldz 4), (0x00001112, .ldmax .tc 1),
    (0x00504013, .ldi .sm 4 5), (0xFFD04013, .ldi .sm 4 (-3)), (0x00102114, .add .tc 2 0 1), (0x00102015, .sub .sm 2 0 1),
    (0x00102016, .mul .sm 2 0 1), (0x00002017, .sqr .sm 2 0), (0xFFE23018, .muli .sm 3 2 (-2)), (0x00030119, .cmpt .tc 3),
    (0x0010001A, .cmpm 0 1)], legal e.1 = some e.2 ∧ encode e.2 = e.1 := by decide

/-- Words worked out from R111 and R115. -/
theorem test_words_codec : ∀ e ∈ [((0x00001020 : Word), Instr.totc 1 0), (0x00012021, .fromtc 2 1),
    (0x00003122, .split .tc 3), (0x00050123, .join .tc 5), (0x00020024, .limblen 2), (0x000F0025, .tzlimb 15),
    (0x00030126, .chk .tc 3)], legal e.1 = some e.2 ∧ encode e.2 = e.1 := by decide

/-- Words of R127 and of 42_vector_engine.md. -/
theorem test_words_vector : ∀ e ∈ [((0x00046030 : Word), Instr.vmov 6 4), (0x00007031, .vldz 7), (0x00024032, .vbcast 4 2),
    (0x00531033, .vext 1 3 5), (0x00125034, .vins 5 2 1), (0x00102035, .vadd .sm 2 0 1), (0x00546136, .vsub .tc 6 4 5),
    (0x00102037, .vmul .sm 2 0 1), (0x00066138, .vsqr .tc 6 6), (0xFFC47039, .vmuli .sm 7 4 (-4)),
    (0x0000003A, .vcmpt .sm 0)], legal e.1 = some e.2 ∧ encode e.2 = e.1 := by decide

/-- One word for each clause of R116. -/
theorem test_words_illegal : ∀ e ∈ [((0x00000004 : Word), Illegal.opcode), (0x0000003B, .opcode), (0x00000200, .reservedBits),
    (0x01102014, .reservedBits), (0x00001000, .fieldNotZero), (0x00100010, .fieldNotZero), (0x00080003, .container),
    (0x00008031, .container), (0x00005110, .repNotAllowed), (0x00000133, .repNotAllowed)],
    illegal e.1 = some e.2 := by decide

/-- No two rows of the table match one word (R116). -/
theorem test_rows_disjoint : opcodeTable.Pairwise fun r q => (r.pattern ^^^ q.pattern) &&& r.mask &&& q.mask ≠ 0 := by
  decide

theorem test_decodeTableWord : decodeTableWord 32 0x00102114 = some (.add .tc 2 0 1) := by decide

/-! ### States -/

/-- The next state, or the state itself at a stop. -/
def nextOf (o : Host.Outcome State Fault Refusal) (s : State) : State :=
  match o with
  | .next t => t
  | .fault _ | .refused _ => s

/-- The state after a command. -/
def after (i : Instr) (s : State) : State := nextOf (exec i s) s

/-- A small block, B bits a limb, just out of reset, with the format 8:Freq, threshold 4 and four values requested. -/
def unbuilt (b fq : Nat) : State :=
  { State.resetWith { limbBits := b, lMax := 3, vcap := 8 } with
    cfgBbp := 8, cfgFrac := BitVec.ofNat 16 fq, cfgThresh := 4, cfgVcount := 4, target := 2 }

/-- Format E1 (B = 32, F = 56, L = 2), just after `CONSTRUCT`. -/
def e1 : State := after .construct (unbuilt 32 56)

/-- Format E2 (B = 31, F = 54, L = 2), just after `CONSTRUCT`. -/
def e2 : State := after .construct (unbuilt 31 24)

/-- Two cells and a third that no command reads. -/
def num (c0 c1 : Cell) (sign : Bool) : Number := { cells := [c0, c1, 9], sign := sign }

def withS (s : State) (r : SReg) (a : Number) : State := { s with sregs := s.sregs.set r a }

/-- Lanes 0 to 3 of a container; the lanes beyond `VCOUNT` stay as `CONSTRUCT` leaves them. -/
def withV (s : State) (v : VReg) (a b c d : Number) : State :=
  { s with vregs := s.vregs.set v ([a, b, c, d] ++ List.replicate 4 (Number.cleared s.params)) }

/-- The sign-magnitude Number k/4 in E1. -/
def q (k : Int) : Number := { cells := (encSM e1.format (k * 2 ^ 54)).cells ++ [9], sign := decide (0 ≤ k) }

/-- The two's-complement Number k/4 in E1. -/
def qc (k : Int) : Number := { cells := (enc2C e1.format (k * 2 ^ 54)).cells ++ [9], sign := decide (0 ≤ k) }

/-- E1 with 1.5 in s0 and 2.0 in s1. -/
def s12 : State := withS (withS e1 0 (q 6)) 1 (q 8)

/-- E1 with v0 = [1.5, 200, −200, 1.0] and v1 = [2.0, 100, −100, −1.0] (R250). -/
def v01 : State := withV (withV e1 0 (q 6) (q 800) (q (-800)) (q 4)) 1 (q 8) (q 400) (q (-400)) (q (-4))

/-- The two cells and sign of a register. -/
def reg (s : State) (r : SReg) : Nat × Nat × Bool := (((s.sregAt r).cell 0).toNat, ((s.sregAt r).cell 1).toNat, (s.sregAt r).sign)

/-- The two cells and sign of a lane. -/
def lane (s : State) (v : VReg) (n : Nat) : Nat × Nat × Bool :=
  (((s.laneAt v n).cell 0).toNat, ((s.laneAt v n).cell 1).toNat, (s.laneAt v n).sign)

/-- The first four lanes of a container. -/
def lanes (s : State) (v : VReg) : List (Nat × Nat × Bool) := (List.range 4).map (lane s v)

/-- The fault record's cause and lane. -/
def cause (s : State) : Nat × Nat := (s.faultCause.toNat, s.faultLane.toNat)

/-! ### Control -/

/-- R163: CMDCNT 5 to 6. -/
theorem test_nop : after .nop { e1 with cmdcnt := 5 } = { e1 with cmdcnt := 6 } := by decide

/-- R160, the example, for VCOUNT = 4. -/
theorem test_construct : (e1.readCsr .fmt, e1.readCsr .threshMsl, e1.inplay) = (0x004002003808, 0x4000000, [true, false]) := by
  decide

/-- R160: the order of the checks. -/
theorem test_construct_faults : cause (after .construct { unbuilt 32 56 with cfgBbp := 33, cfgVcount := 6 }) = (3, 0xFFFFFFFF) ∧
    cause (after .construct { unbuilt 32 56 with cfgThresh := 256, cfgVcount := 6 }) = (4, 0xFFFFFFFF) ∧
    cause (after .construct { unbuilt 32 56 with cfgThresh := 255, cfgVcount := 6 }) = (5, 0xFFFFFFFF) := by decide

/-- R282: counts and flags cleared, group 0 in play. -/
theorem test_orst : let t := after .orst { e1 with inplay := [false, false], done := List.replicate 8 true, count := List.replicate 8 3 }
    (t.inplay, t.done, t.count) = ([true, false], List.replicate 8 false, List.replicate 8 0) := by decide

/-- R283, the example's second group: 5, 4, 4, 4 escape at once and the group leaves the set. -/
theorem test_upddone : let t := after (.upddone .sm 6) (withV e1 6 (q 20) (q 16) (q 16) (q 16))
    (t.esc.take 4, t.done.take 4, t.count.take 4, t.ipempty) =
      ([true, true, true, true], [true, true, true, true], [1, 1, 1, 1], true) := by decide

/-- R283, the example's first group: 8, 0, 0, 0 retires lane 0 only; with TARGET 1 the cap retires the others. -/
theorem test_upddone_cap : let s := withV e1 6 (q 32) (q 0) (q 0) (q 0)
    (after (.upddone .sm 6) s).done.take 4 = [true, false, false, false] ∧
    (after (.upddone .sm 6) { s with target := 1 }).done.take 4 = [true, true, true, true] := by decide

/-! ### Scalar -/

/-- R211. -/
theorem test_mov : reg (after (.mov 5 0) (withS s12 0 (num 0 0x01800000 false))) 5 = (0, 0x01800000, false) := by decide
/-- R206: zero, sign 1; the cell beyond L stays. -/
theorem test_ldz : ((after (.ldz 4) (withS e1 4 (num 5 6 false))).sregAt 4).cells = [0, 0, 9] := by decide
/-- R207. -/
theorem test_ldmax : reg (after (.ldmax .sm 1) e1) 1 = (0, 0xFF000000, true) := by decide
theorem test_ldmax_2c : reg (after (.ldmax .tc 1) e1) 1 = (0, 0x7F000000, true) := by decide
/-- R208. -/
theorem test_ldi : reg (after (.ldi .sm 4 (-3)) e1) 4 = (0, 0x03000000, false) := by decide
theorem test_ldi_range : cause (after (.ldi .sm 4 256) e1) = (0x0A, 0xFFFFFFFF) := by decide
/-- R204: 1.5 + 2.0, and 200 + 100 saturating. -/
theorem test_add : reg (after (.add .sm 2 0 1) s12) 2 = (0, 0x03800000, true) := by decide
theorem test_add_saturates : let t := after (.add .sm 2 0 1) (withS (withS e1 0 (q 800)) 1 (q 400))
    (reg t 2, t.acarry) = ((0, 0xFF000000, true), 1) := by decide
/-- R205: 1.5 − 2.0, and 0 − (−128) in 2C. -/
theorem test_sub : reg (after (.sub .sm 2 0 1) s12) 2 = (0, 0x00800000, false) := by decide
theorem test_sub_2c : reg (after (.sub .tc 2 0 1) (withS e1 1 (qc (-512)))) 2 = (0, 0x7F000000, true) := by decide
/-- R201: the example with one carry, and 8 × 16 in 2C. -/
theorem test_mul : let n := num 0xFFFFFFFF 0x01FFFFFF true
    let t := after (.mul .sm 2 0 1) (withS (withS e1 0 n) 1 n)
    (reg t 2, t.mcarry) = ((0xFFFFFFFC, 0x03FFFFFF, true), 1) := by decide
theorem test_mul_overflow : cause (after (.mul .tc 2 0 1) (withS (withS e1 0 (qc 32)) 1 (qc 64))) = (8, 0xFFFFFFFF) := by decide
/-- R202: (−1.5)², and 11.5² in SM. -/
theorem test_sqr : reg (after (.sqr .sm 2 0) (withS e1 0 (q (-6)))) 2 = (0, 0x02400000, true) := by decide
theorem test_sqr_large : reg (after (.sqr .sm 2 0) (withS e1 0 (q 46))) 2 = (0, 0x84400000, true) := by decide
/-- R203: 1.5 × −2, and the static check on 64 × 3. -/
theorem test_muli : reg (after (.muli .sm 3 0 (-2)) s12) 3 = (0, 0x03000000, false) := by decide
theorem test_muli_static : cause (after (.muli .sm 3 0 3) (withS e1 0 (q 256))) = (8, 0xFFFFFFFF) := by decide
/-- R209: 4.0 against 4, and 2C −1.0. -/
theorem test_cmpt : (after (.cmpt .sm 0) (withS e1 0 (q 15))).ge = false ∧ (after (.cmpt .sm 0) (withS e1 0 (q 16))).ge = true := by
  decide
theorem test_cmpt_2c : (after (.cmpt .tc 0) (withS e1 0 (qc (-4)))).ge = true := by decide
/-- R210: 1.5 against −2.0. -/
theorem test_cmpm : (after (.cmpm 0 1) (withS s12 1 (q (-8)))).cmp = 2 := by decide

/-! ### Codec -/

/-- R170: −1.5, and +2^(T−1). -/
theorem test_totc : reg (after (.totc 1 0) (withS e1 0 (q (-6)))) 1 = (0, 0xFFFFFFFFFE800000, false) := by decide
theorem test_totc_overflow : cause (after (.totc 1 0) (withS e1 0 (num 0 0x80000000 true))) = (9, 0xFFFFFFFF) := by decide
/-- R171: −1.5 and −2^(T−1). -/
theorem test_fromtc : reg (after (.fromtc 2 1) (withS e1 1 (num 0 0xFFFFFFFFFE800000 true))) 2 = (0, 0x01800000, false) := by decide
theorem test_fromtc_least : reg (after (.fromtc 2 1) (withS e1 1 (num 0 0xFFFFFFFF80000000 true))) 2 = (0, 0x80000000, false) := by
  decide
/-- R172: 3 × 2^−1. -/
theorem test_split : reg (after (.split .sm 0) { e1 with raw := e1.raw.set 0 3, rawExp := -1 }) 0 = (0, 0x01800000, true) := by
  decide +kernel
/-- R173: 1.5. -/
theorem test_join : let t := after (.join .sm 0) { s12 with raw := e1.raw.set 1 7 }
    (t.raw[0], t.raw[1], t.readCsr .rawExp, t.rawSign) = (0x0180000000000000, 0, 0xFFFFFFFFFFFFFFC8, true) := by decide
/-- R174, the example. -/
theorem test_chk : (after (.chk .sm 3) (withS e1 3 (num 0 0x100000000 true))).valid = false ∧
    (after (.chk .tc 3) (withS e1 3 (num 0 0x100000000 true))).valid = false := by decide
theorem test_chk_2c : (after (.chk .tc 3) (withS e1 3 (num 5 0xFFFFFFFFFFFFFFFF true))).valid = true ∧
    (after (.chk .sm 3) (withS e1 3 (num 5 0xFFFFFFFFFFFFFFFF true))).valid = false := by decide
/-- R175, R176, the examples. -/
theorem test_limblen : ((after (.limblen 0) (withS e1 0 (num 5 0 true))).res, (after (.limblen 0) (withS e1 0 (num 0 7 true))).res,
    (after (.limblen 0) (withS e1 0 (num 0 0 true))).res) = (1, 2, 0) := by decide
theorem test_tzlimb : ((after (.tzlimb 0) (withS e1 0 (num 5 0 true))).res, (after (.tzlimb 0) (withS e1 0 (num 0 7 true))).res,
    (after (.tzlimb 0) (withS e1 0 (num 0 0 true))).res) = (0, 1, 2) := by decide

/-! ### Vectors -/

/-- R242: a done lane is not written. -/
theorem test_vmov : let t := after (.vmov 6 0) { v01 with done := [false, true, false, false, false, false, false, false] }
    lanes t 6 = [(0, 0x01800000, true), (0, 0, true), (0, 0xC8000000, false), (0, 0x01000000, true)] := by decide
/-- R243. -/
theorem test_vldz : lanes (after (.vldz 0) v01) 0 = List.replicate 4 (0, 0, true) := by decide
/-- R244: −0.25. -/
theorem test_vbcast : lanes (after (.vbcast 4 2) (withS e1 2 (q (-1)))) 4 = List.replicate 4 (0, 0x00400000, false) := by decide
/-- R245: 4.5 out of lane 3; lane 4 is out of range. -/
theorem test_vext : reg (after (.vext 1 3 3) (withV e1 3 (q 4) (q 8) (q 12) (q 18))) 1 = (0, 0x04800000, true) := by decide
theorem test_vext_range : cause (after (.vext 1 3 4) e1) = (6, 4) := by decide
/-- R246: lane 1 and no other. -/
theorem test_vins : lanes (after (.vins 5 2 1) (withS e1 2 (q (-1)))) 5 =
    [(0, 0, true), (0, 0x00400000, false), (0, 0, true), (0, 0, true)] := by decide
/-- R250, the example. -/
theorem test_vadd : let t := after (.vadd .sm 2 0 1) v01
    (lanes t 2, t.done.take 4, t.acarry) =
      ([(0, 0x03800000, true), (0, 0xFF000000, true), (0, 0xFF000000, false), (0, 0, true)], [false, true, true, false], 2) := by
  decide
/-- R251, the example. -/
theorem test_vsub : lanes (after (.vsub .sm 6 4 5) (withV (withV e1 4 (q 4) (q 4) (q 4) (q 4)) 5 (q 1) (q 4) (q 0) (q (-4)))) 6 =
    [(0, 0x00C00000, true), (0, 0, true), (0, 0x01000000, true), (0, 0x02000000, true)] := by decide
/-- R247, the example and its overflow in lane 3. -/
theorem test_vmul : lanes (after (.vmul .sm 2 0 1) (withV (withV e1 0 (q 6) (q (-8)) (q 0) (q 12)) 1 (q 8) (q 8) (q 20) (q 64))) 2 =
    [(0, 0x03000000, true), (0, 0x04000000, false), (0, 0, true), (0, 0x30000000, true)] := by decide
theorem test_vmul_overflow :
    cause (after (.vmul .sm 2 0 1) (withV (withV e1 0 (q 6) (q (-8)) (q 0) (q 64)) 1 (q 8) (q 8) (q 20) (q 64))) = (8, 3) := by decide
/-- R248: the example, and the lowest failing lane. -/
theorem test_vsqr : lanes (after (.vsqr .sm 6 0) (withV e1 0 (q 6) (q (-6)) (q 0) (q 8))) 6 =
    [(0, 0x02400000, true), (0, 0x02400000, true), (0, 0, true), (0, 0x04000000, true)] := by decide
theorem test_vsqr_lane_order :
    cause (after (.vsqr .sm 6 0) (withV e1 0 (q 4) (q 64) (q 4) (num 0 0x100000000 true))) = (8, 1) := by decide
/-- R249: −0.25 × −4. -/
theorem test_vmuli : lanes (after (.vmuli .sm 7 4 (-4)) (withV e1 4 (q (-1)) (q (-1)) (q (-1)) (q (-1)))) 7 =
    List.replicate 4 (0, 0x01000000, true) := by decide
/-- R252: [8.0, 3.75, 4.0, 0]. -/
theorem test_vcmpt : (after (.vcmpt .sm 0) (withV e1 0 (q 32) (q 15) (q 16) (q 0))).esc.take 4 = [true, false, true, false] := by
  decide

/-! ### Steps and the host port -/

/-- R64, R310: `LDZ s4` runs through the port, with junk in bits [63:32]. -/
theorem test_step_command : let t := nextOf (step { e1 with host := [host8 0x038 0xDEADBEEF00004011] }) e1
    (t.cmdcnt, reg t 4, t.host) = (2, (0, 0, true), []) := by decide
/-- R303: right after reset. -/
theorem test_fetch_after_reset : cause (nextOf (step (State.reset.withFetchWord 32 0x00004011)) State.reset) = (2, 0xFFFFFFFF) := by decide
theorem test_step_idle : (match step State.reset with | .fault .hostIdle => true | _ => false) = true := by decide
/-- R340, R54: `STATUS` after reset. -/
theorem test_reset_status : State.reset.readCsr .status = 0x40 := by decide
/-- R52: `CAP` with B = 32, L_MAX = 8, VCAP = 16. -/
theorem test_reset_cap : State.reset.readCsr .cap = 0x0104081000100820 := by decide
/-- R315, R316: dropped, then cleared. -/
theorem test_drop_and_clear : let f := after (.ldi .sm 4 256) e1
    after (.ldz 4) f = { f with dropped := true } ∧ cause (nextOf (serve (host8 0x018 0x100) f) f) = (0, 0) := by decide
/-- R81: four bytes at the offset of CTRL. -/
theorem test_bad_width : nextOf (serve (.write 0x008 [3, 0, 0, 0]) e1) e1 = { e1 with buserr := true } := by decide
/-- R84: the sign slot of s1 reads back as a mask. -/
theorem test_sign_slot : let t := nextOf (serve (host8 0x0023F8 2) e1) e1
    (nextOf (serve (.read 0x0023F8 8) t) t).hostData = List.replicate 8 0 ∧
    (nextOf (serve (.read 0x0023F8 8) e1) e1).hostData = List.replicate 8 0xFF := by decide
/-- R320. -/
theorem test_irq : ({ after (.ldi .sm 4 256) e1 with fie := true } : State).irq = true ∧ ({ e1 with die := true } : State).irq = false := by
  decide

/-! ### Cases that meet the premises of the statements -/

/-- The command answers a next state. -/
def runs (i : Instr) (s : State) : Bool :=
  match exec i s with
  | .next _ => true
  | .fault _ | .refused _ => false

/-- The move answers a next state. -/
def serves (e : HostEvent) (s : State) : Bool :=
  match serve e s with
  | .next _ => true
  | .fault _ | .refused _ => false

theorem exec_after {i : Instr} {s : State} (h : runs i s = true) : exec i s = .next (after i s) := by
  unfold runs at h; unfold after nextOf; split at h <;> simp_all

theorem serve_nextOf {e : HostEvent} {s : State} (h : serves e s = true) : serve e s = .next (nextOf (serve e s) s) := by
  unfold serves at h; unfold nextOf; split at h <;> simp_all

/-- A state with a fault recorded. -/
def faulty : State := after (.ldi .sm 4 256) e1

/-- Lane 1 out of the SM product range, lanes 2 and 3 invalid in both representations, lane 0 fine. -/
def vbad : State := withV e1 0 (q 4) (q 64) (num 0x100000000 0 true) (num 0x100000000 0 true)

/-- Format 32:0 at B = 31, where I > B. -/
def f32 : Format := { b := 31, i := 32, f := 30, l := 2, t := 62 }

theorem inv_s12 : s12.Inv := ⟨by decide, by decide, by decide, by decide⟩
theorem inv_v01 : v01.Inv := ⟨by decide, by decide, by decide, by decide⟩
theorem inv_vbad : vbad.Inv := ⟨by decide, by decide, by decide, by decide⟩
theorem inv_e2 : e2.Inv := ⟨by decide, by decide, by decide, by decide⟩
theorem inv_reset : State.reset.Inv := ⟨by decide, by decide, by decide, by decide⟩

theorem test_premises_DecodeOfEncode : WellFormed (.ldi .sm 4 (-2048)) ∧ WellFormed (.muli .tc 3 2 2047) ∧
    WellFormed (.vext 1 3 4095) ∧ WellFormed (.vins 7 15 0) := by decide

theorem test_premises_EncodeOfDecode : decode 0xFFE23018 = .ok (.muli .sm 3 2 (-2)) := rfl

theorem test_premises_LegalWordsMatchTheTable : LegalWord 0x00102114 ∧ ¬ LegalWord 0x00000200 ∧ ¬ LegalWord 0x00080003 ∧
    (∃ r ∈ opcodeTable, rowMatches r 0x00102114 = true) ∧ decode 0x00102114 = .ok (.add .tc 2 0 1) ∧ e1.faultV = false :=
  ⟨by decide, by decide, by decide, by decide, rfl, by decide⟩

theorem test_premises_AssemblerRoundTrip : WellFormed (.vmuli .tc 7 0 (-2048)) := by decide

theorem test_premises_CommandWriteRunsTheCommand : decode ((0xDEADBEEF00004011 : Cell).setWidth 32) = .ok (.ldz 4) ∧
    decode ((4 : Cell).setWidth 32) = .error .opcode ∧
    ({ e1 with host := [host8 0x038 4, .reset] } : State).host = host8 0x038 4 :: [.reset] ∧
    ({ e1 with host := [.read 0x038 8] } : State).host = .read 0x038 8 :: [] := ⟨rfl, rfl, rfl, rfl⟩

theorem test_premises_NothingStopsTheBlock : ({ e1 with host := [.read 0 3] } : State).host ≠ [] ∧ e1.host = [] := by decide

theorem test_premises_IllegalWordsFault : e1.faultV = false ∧ ¬ LegalWord 0x00000104 ∧ LegalWord 0x10004013 ∧
    decode 0x10004013 = .ok (.ldi .sm 4 256) ∧ exec (.ldi .sm 4 256) e1 = .next faulty ∧ faulty.faultV = true :=
  ⟨by decide, by decide, by decide, rfl, exec_after (by decide), by decide⟩

theorem test_premises_NotConfigured : (unbuilt 32 56).faultV = false ∧ (unbuilt 32 56).configured = false ∧
    exec (.ldz 4) (unbuilt 32 56) = .next (after (.ldz 4) (unbuilt 32 56)) ∧
    (after (.ldz 4) (unbuilt 32 56)).faultCause = 0x02 ∧
    exec .construct (unbuilt 32 56) = .next e1 ∧ e1.configured = true :=
  ⟨by decide, by decide, exec_after (by decide), by decide, exec_after (by decide), by decide⟩

theorem test_premises_DroppedUntilCleared : faulty.faultV = true ∧ (0x100 : Cell).getLsbD 8 = true ∧
    (0xFF : Cell).getLsbD 8 = false := by decide

theorem test_premises_InvalidOperandFaults : vbad.Ready ∧
    let s := withS s12 0 (num 0x100000000 0 true)
    s.Ready ∧ validRep s.format .sm (s.sregAt 0) = false ∧ validRep s.format .tc (s.sregAt 0) = false ∧
      validRep s.format .sm (s.sregAt 1) = true := by decide

/-- Lane 1 fails first: its product is out of range; in `v01` with an invalid lane 0, lane 0 does. -/
theorem test_premises_LowestFailingLane : vbad.Inv ∧ vbad.Ready ∧ SImmOk 2047 ∧ SImmOk (-2048) ∧
    vbad.isActive 1 = true ∧ vbad.isActive 3 = true ∧ (∀ m, m < 1 → vbad.isActive m = true →
      validRep vbad.format .sm (vbad.laneAt 0 m) = true ∧
        inrangeRep vbad.format .sm (truncatedProduct vbad.format (xRep vbad.format .sm (vbad.laneAt 0 m))
          (xRep vbad.format .sm (vbad.laneAt 0 m))) = true) ∧
    validRep vbad.format .sm (vbad.laneAt 0 1) = true ∧
    inrangeRep vbad.format .sm (truncatedProduct vbad.format (xRep vbad.format .sm (vbad.laneAt 0 1))
      (xRep vbad.format .sm (vbad.laneAt 0 1))) = false ∧
    (∀ m, m < 2 → vbad.isActive m = true → validRep vbad.format .sm (vbad.laneAt 0 m) = true) ∧
    validRep vbad.format .sm (vbad.laneAt 0 2) = false :=
  ⟨inv_vbad, by decide⟩

theorem test_premises_BadAccessSetsBusError : (4 ≠ 8 ∨ (0x008 : BitVec 23).toNat % 8 ≠ 0) ∧ (8 ≠ 8 ∨ (0x7FFFFF : BitVec 23).toNat % 8 ≠ 0) := by
  decide

/-- A reserved offset of each kind, for L_MAX = 3 and VCAP = 8. -/
theorem test_premises_ReservedOffsets : e1.params.Legal ∧ ReservedOffset e1.params 0x0000B0 ∧ ReservedOffset e1.params 0x001FF8 ∧
    ReservedOffset e1.params 0x002018 ∧ ReservedOffset e1.params 0x004040 ∧ ReservedOffset e1.params 0x006080 ∧
    ReservedOffset e1.params 0x006180 ∧ ReservedOffset e1.params 0x0FFFF8 ∧ ReservedOffset e1.params 0x106000 ∧
    ReservedOffset e1.params 0x100040 ∧ ReservedOffset e1.params 0x7FFFF8 :=
  ⟨by decide, .inl (by decide), .inr (.inl (by decide)), .inr (.inr (.inl ⟨0, 3, by decide⟩)),
    .inr (.inr (.inr (.inl ⟨8, by decide⟩))), .inr (.inr (.inr (.inr (.inl (by decide))))),
    .inr (.inr (.inr (.inr (.inr (.inl (by decide)))))), .inr (.inr (.inr (.inr (.inr (.inr (.inl (by decide))))))),
    .inr (.inr (.inr (.inr (.inr (.inr (.inr (.inl ⟨0, 3, 0, by decide⟩))))))),
    .inr (.inr (.inr (.inr (.inr (.inr (.inr (.inl ⟨0, 0, 8, by decide⟩))))))),
    .inr (.inr (.inr (.inr (.inr (.inr (.inr (.inr (by decide))))))))⟩

/-- The last slot of each kind, for L_MAX = 3 and VCAP = 8. -/
theorem test_premises_DataSlotReadsBack : s12.Inv ∧ CellOffset s12.params 0x0011F8 ∧ CellOffset s12.params 0x003E10 ∧
    CellOffset s12.params 0x484038 ∧ SignOffset s12.params 0x003FF8 ∧ SignOffset s12.params 0x4FE038 ∧
    CountOffset s12.params 0x004038 ∧ FlagWordOffset 0x006078 ∧ FlagWordOffset 0x006178 ∧ FlagWordOffset 0x006218 := by
  have cell : ∃ v k n, v < 8 ∧ k < s12.params.lMax ∧ n < s12.params.vcap ∧ 0x484038 = 0x100000 + 0x80000 * v + 0x2000 * k + 8 * n :=
    ⟨7, 2, 7, by decide⟩
  refine ⟨inv_s12, .inl ⟨63, by decide⟩, .inr (.inl ⟨15, 2, by decide⟩), .inr (.inr cell), .inl ⟨15, by decide⟩, ?_, ⟨7, by decide⟩,
    .inl ⟨15, by decide⟩, .inr (.inl ⟨15, by decide⟩), .inr (.inr ⟨3, by decide⟩)⟩
  exact .inr ⟨7, 7, by decide⟩

/-- R85: group 0 is in play after `CONSTRUCT`, so `INPLAY` word 0 reads 1; R67: RAW_EXP = −56 reads sign-extended. -/
theorem test_inplay_word : (nextOf (serve (.read 0x006200 8) e1) e1).hostData = [1, 0, 0, 0, 0, 0, 0, 0] := by decide

theorem test_premises_FaultWritesExactlyTheRecord : exec (.ldi .sm 4 256) e1 = .next faulty ∧ e1.faultV = false ∧
    faulty.faultV = true := ⟨exec_after (by decide), by decide, by decide⟩

theorem test_premises_CommandCount : serve (host8 0x038 0x4011) faulty = .next (nextOf (serve (host8 0x038 0x4011) faulty) faulty) :=
  serve_nextOf (by decide)

theorem test_premises_ResetValues : e1.params.Legal ∧ ({ e1 with host := [.reset] } : State).host = .reset :: [] ∧ Params.chosen.Legal := by
  decide

theorem test_premises_ResetMeetsInvariant : ({ limbBits := 31, lMax := 63, vcap := 1024 } : Params).Legal ∧
    ({ limbBits := 32, lMax := 1, vcap := 4 } : Params).Legal := by decide

theorem test_premises_CapConstant : e1.params.Legal := by decide

/-- A step from a state that meets the invariant, with a command waiting. -/
theorem test_premises_StepKeepsInvariant : State.reset.Inv ∧ s12.Inv ∧ e2.Inv ∧ ({ s12 with host := [host8 0x038 0x4011] } : State).Inv ∧
    (match step { s12 with host := [host8 0x038 0x4011] } with | .next t => t.cmdcnt == 2 | _ => false) = true :=
  ⟨inv_reset, inv_s12, inv_e2, inv_s12, by decide⟩

theorem test_premises_InPlayInvariant : s12.Inv ∧ ∀ i ∈ [Instr.orst, .construct, .upddone .sm 3],
    runs i s12 = true ∧ (after i s12).faultV = false := ⟨inv_s12, by decide⟩

/-- A saturating `VADD` sets a done flag; `UPDDONE` after it leaves that lane's count alone. -/
theorem test_premises_DoneIsFinal : exec (.upddone .sm 3) (after (.vadd .sm 2 0 1) v01) =
      .next (after (.upddone .sm 3) (after (.vadd .sm 2 0 1) v01)) ∧ (after (.vadd .sm 2 0 1) v01).doneAt 1 = true ∧
    (after (.upddone .sm 3) (after (.vadd .sm 2 0 1) v01)).countAt 0 = 1 := ⟨exec_after (by decide), by decide, by decide⟩

/-- A pass of the host: two `UPDDONE v3`, a read of STATUS, a lane write and a `VADD` that saturates between them. -/
def passes : List HostEvent :=
  [host8 0x038 0x00030003, .read 0x010 8, host8 0x100000 5, host8 0x038 0x00102035, host8 0x038 0x00030003]

/-- v01 with the host about to write `ORST` and then the pass; TARGET = 2. -/
def vrun : State := { v01 with host := host8 0x038 0x00000002 :: passes }

theorem inv_vrun : vrun.Inv := inv_v01

theorem test_premises_RunsTerminate : vrun.Inv ∧ vrun.Ready ∧ vrun.host = host8 0x038 0x00000002 :: passes ∧
    (host8 0x038 0x00000002).command? = some .orst ∧ (∀ m ∈ passes, m.LeavesRun) ∧
    max vrun.target.toNat 1 ≤ (passes.filter (·.isUpddone)).length := ⟨inv_vrun, by decide, rfl, by decide⟩

/-- The run ends well after the second update, with every count 2 but those of the lanes the `VADD` retired. -/
theorem test_run_ends_well : (match vrun.run with | some (.well out) => (out.count, out.done, out.dsum, out.acarry) | _ => ([], [], 0, 0)) =
    ([2, 1, 1, 2], [true, true, true, true], 2, 2) := by decide

/-- A run with an invalid active lane ends badly at its first update, with the counts before it. -/
def vrunBad : State := { vbad with host := [host8 0x038 0x00000002, host8 0x038 0x00000003] }

theorem test_run_ends_badly : (match vrunBad.run with | some (.bad out) => (out.fault.cause, out.fault.lane, out.count) | _ => (0, 0, [])) =
    (7, 2, [0, 0, 0, 0]) := by decide

/-- A scalar program: LDZ s4 and a read; its output is the state after the LDZ. -/
def scalarProgram : State := { e1 with host := [host8 0x038 0x00004011, .read 0x010 8] }

theorem test_premises_RunsEndWhereTheSpecSays : vrun.Inv ∧ vrunBad.Inv ∧ (vrun.run).isSome = true ∧ (vrunBad.run).isSome = true ∧
    (∀ e ∈ scalarProgram.host, e ≠ .reset ∧ (e.command?.all isScalarCommand) = true) ∧
    (∃ e ∈ scalarProgram.host, e.commandWord? ≠ none) ∧
    scalarProgram.scalarProgramOutput = some { after (.ldz 4) e1 with host := [.read 0x010 8] } :=
  ⟨inv_v01, inv_vbad, by decide⟩

/-- R285's output of a good end, of three sample points too, and none of a bad end. -/
theorem test_protocol_output :
    vrun.protocolOutput = some { count := [2, 1, 1, 2], dsum := 2 } ∧
    vrun.protocolOutput.map (·.points 3) = some [2, 1, 1] ∧ vrunBad.protocolOutput = none := by decide

/-- A host write after the last command write is no part of a scalar program's output. -/
theorem test_scalar_program_stops_at_its_last_command :
    (({ e1 with host := [host8 0x038 0x00004011, host8 0x070 9] } : State).scalarProgramOutput.map (·.target)) = some 2 := by decide

/-- A reset during a run ends it without output, and a run the host abandons has no end (R360). -/
theorem test_run_without_output : ({ vrun with host := [host8 0x038 2, .reset] } : State).run = some .reset ∧
    ({ vrun with host := [host8 0x038 2] } : State).run = some .abandoned ∧ scalarProgram.run = none := by decide

/-- A run in which the host breaks a duty, by a read of a bad width, still has an end (the model's choice, log entry 23). -/
theorem test_run_with_a_bad_access :
    (match ({ vrun with host := host8 0x038 2 :: .read 0x010 4 :: passes } : State).run with
      | some (.well out) => out.count
      | _ => []) = [2, 1, 1, 2] := by decide

theorem test_premises_RetiredLanesFrozen : let s := after (.vadd .sm 2 0 1) v01
    s.doneAt 1 = true ∧ s.inplayAt (4 / 4) = false ∧ s.vcount.toNat ≤ 4 ∧ runs (.vmov 2 0) s = true := by decide

theorem test_premises_FlagsHaveOneWriter : runs (.mul .sm 2 0 1) s12 = true ∧ runs .construct s12 = true ∧ s12.faultV = false ∧
    (after .construct s12).faultV = false := by decide

theorem test_premises_CountersAreAdvisory : exec (.add .sm 2 0 1) s12 = .next (after (.add .sm 2 0 1) s12) := exec_after (by decide)

theorem test_premises_ConfigurationLatch : Instr.vadd .sm 2 0 1 ≠ .construct ∧
    exec (.vadd .sm 2 0 1) v01 = .next (after (.vadd .sm 2 0 1) v01) := ⟨by decide, exec_after (by decide)⟩

theorem test_premises_CellsBeyondL : s12.Inv ∧ AgreeUpToL s12 s12 ∧ s12.format.l ≤ 2 ∧ runs (.mov 2 0) s12 = true ∧
    (after .construct s12).faultV = false :=
  ⟨inv_s12, ⟨rfl, fun _ => ⟨rfl, fun _ _ => rfl, rfl⟩, fun _ => ⟨rfl, fun _ => ⟨rfl, fun _ _ => rfl, rfl⟩⟩⟩, by decide, by decide,
    by decide⟩

/-- E1, E2 and 32:0 at B = 31 are legal; the ends of both ranges of E1. -/
theorem test_premises_OperandsInRange : e1.format.Legal ∧ e2.format.Legal ∧ f32.Legal ∧ inrangeSM e1.format (2 ^ 64 - 1) = true ∧
    inrangeSM e1.format (-(2 ^ 64) + 1) = true ∧ inrange2C e1.format (-(2 ^ 63)) = true ∧ inrange2C e1.format (2 ^ 63) = false ∧
    validSM e1.format (num 0xFFFFFFFF 0xFFFFFFFF false) = true := by decide

theorem test_premises_EncodingsHoldTheirValue : HoldsNumber e1.format .sm (q (-6)) (-6 * 2 ^ 54) ∧ HoldsNumber e1.format .tc (qc (-512)) (-(2 ^ 63)) :=
  ⟨⟨by decide, by decide, by decide⟩, ⟨by decide, by decide, by decide⟩⟩

theorem test_premises_BinsSumToTheProduct : e1.format.Legal ∧ 2 ^ 64 - 1 < 2 ^ e1.format.t ∧ 2 ^ 32 - 1 < 2 ^ e1.format.b := by decide

/-- I < B, I = B and I > B. -/
theorem test_premises_ShiftAndTrimAsLimbs : [0xFFFFFFFF, 0, 1, 0xFFFFFFFF].length = 2 * e1.format.l ∧
    (∀ d ∈ [0xFFFFFFFF, 0, 1, 0xFFFFFFFF], d < 2 ^ e1.format.b) ∧ e1.format.i ≤ e1.format.b ∧
    ({ b := 32, i := 32, f := 32, l := 2, t := 64 } : Format).Legal ∧ f32.b < f32.i := by decide

/-- Thresholds at the ends of the range; operands of both signs. -/
theorem test_premises_ThresholdExactness : 255 < 2 ^ e1.format.i ∧ 2 ^ 32 - 1 < 2 ^ f32.i ∧ (2 ^ 32 - 1) % 2 = 1 ∧
    2 ^ (f32.i - 1) ≤ 2 ^ 32 - 1 ∧ validRep e1.format .sm (q 16) = true ∧ 0 ≤ xRep e1.format .sm (q 16) ∧
    validRep f32 .tc { cells := [1, 0x3FFFFFFF], sign := true } = true ∧
    0 ≤ xRep f32 .tc { cells := [1, 0x3FFFFFFF], sign := true } ∧
    validSM e1.format (q (-32)) = true ∧ xSM e1.format (q (-32)) < 0 ∧
    valid2C e1.format (qc (-4)) = true ∧ x2C e1.format (qc (-4)) < 0 := by decide

theorem test_premises_CommandCount_nop : (unbuilt 32 56).faultV = false ∧ (unbuilt 32 56).configured = false ∧ faulty.faultV = true := by
  decide

/-- A product in range and one out of it. -/
theorem test_premises_MulTruncatedProduct : s12.Inv ∧ s12.Ready ∧ (∀ r : SReg, validRep s12.format .sm (s12.sregAt r) = true) ∧
    inrangeRep s12.format .sm (truncatedProduct s12.format (xRep s12.format .sm (s12.sregAt 0)) (xRep s12.format .sm (s12.sregAt 1))) =
      true ∧
    inrangeRep e1.format .sm (truncatedProduct e1.format (xRep e1.format .sm (q 64)) (xRep e1.format .sm (q 64))) = false ∧
    inrangeRep e1.format .tc (truncatedProduct e1.format (xRep e1.format .tc (qc (-32))) (xRep e1.format .tc (qc 64))) = true :=
  ⟨inv_s12, by decide⟩

/-- 11.5² is in the SM range and out of the 2C range (R202). -/
theorem test_premises_SqrTruncatedSquare : s12.Inv ∧ s12.Ready ∧ validRep s12.format .sm (s12.sregAt 0) = true ∧
    inrangeRep e1.format .sm ((xRep e1.format .sm (q 46)).natAbs ^ 2 / 2 ^ e1.format.f : Nat) = true ∧
    inrangeRep e1.format .tc ((xRep e1.format .tc (qc 46)).natAbs ^ 2 / 2 ^ e1.format.f : Nat) = false :=
  ⟨inv_s12, by decide⟩

theorem test_premises_SquareIsMultiply : s12.Inv ∧ e2.Inv := ⟨inv_s12, inv_e2⟩

/-- The static check at its bound (60 × 3), beyond it (64 × 3), and the 2C range check (60 × 3 = 180). -/
theorem test_premises_MuliExactProduct : SImmOk 3 ∧ validRep e1.format .tc (qc 240) = true ∧ muliAdmits e1.format (xRep e1.format .sm (q 240)) 3 ∧
    inrangeRep e1.format .sm (xRep e1.format .sm (q 240) * 3) = true ∧ ¬ muliAdmits e1.format (xRep e1.format .sm (q 256)) 3 ∧
    inrangeRep e1.format .tc (xRep e1.format .tc (qc 240) * 3) = false :=
  ⟨by decide, by decide, .inr (.inr (by decide)), by decide,
    fun h => h.elim (by decide) fun h => h.elim (by decide) (by decide), by decide⟩

/-- Sums at the edge of the SM range: in range, and out of it. -/
theorem test_premises_AddSubSaturate : s12.Inv ∧ s12.Ready ∧ inrangeRep e1.format .sm (xRep e1.format .sm (q 1020) + (2 ^ 56 - 1)) = true ∧
    inrangeRep e1.format .sm (xRep e1.format .sm (q 1020) + 2 ^ 56) = false := ⟨inv_s12, by decide, by decide, by decide⟩

/-- `LDI` at the bounds of I = 8. -/
theorem test_premises_LoadsAndMovWriteTheDestination : s12.Inv ∧ s12.Ready ∧ ((255 : Int).natAbs : Int) < 2 ^ s12.format.i ∧
    ¬ ((256 : Int).natAbs : Int) < 2 ^ s12.format.i ∧ -(2 : Int) ^ (s12.format.i - 1) ≤ -128 ∧ (-128 : Int) < 2 ^ (s12.format.i - 1) ∧
    ¬ (128 : Int) < 2 ^ (s12.format.i - 1) := ⟨inv_s12, by decide⟩

/-- Equal magnitudes; the first greater at the top cell; the first less at the bottom cell. -/
theorem test_premises_ComparesWriteTheirFlag : s12.Inv ∧ s12.Ready ∧ validRep e1.format .tc (qc (-4)) = true ∧ validSM s12.format (num 1 2 false) = true ∧
    (∀ k, k < s12.format.l → ((num 1 2 true).cell k).toNat = ((num 1 2 false).cell k).toNat) ∧
    ((num 9 2 true).cell 1).toNat < ((num 1 3 true).cell 1).toNat ∧ ((num 1 2 true).cell 1).toNat = ((num 3 2 true).cell 1).toNat ∧
    ((num 1 2 true).cell 0).toNat < ((num 3 2 true).cell 0).toNat :=
  ⟨inv_s12, by decide⟩

theorem test_premises_SubUndoesAdd : s12.Inv ∧ s12.Ready ∧ validRep s12.format .sm (s12.sregAt 0) = true ∧
    validRep s12.format .sm (s12.sregAt 1) = true ∧
    inrangeRep s12.format .sm (xRep s12.format .sm (s12.sregAt 0) + xRep s12.format .sm (s12.sregAt 1)) = true :=
  ⟨inv_s12, by decide⟩

/-- −2^(T−1) converts and 2^(T−1) does not. -/
theorem test_premises_ConversionsKeepTheValue : s12.Inv ∧ s12.Ready ∧ validSM e1.format (num 0 0x80000000 false) = true ∧
    inrange2C e1.format (xSM e1.format (num 0 0x80000000 false)) = true ∧
    inrange2C e1.format (xSM e1.format (num 0 0x80000000 true)) = false ∧
    valid2C e1.format (num 0 0xFFFFFFFF80000000 true) = true :=
  ⟨inv_s12, by decide⟩

/-- `RAW` = 0 is in range; RAW[0] = 1 with exponent 8 is 256, out of range. -/
theorem test_premises_SplitAlignsTheStagedValue : s12.Inv ∧ s12.Ready ∧
    inrangeRep e1.format .sm (alignedMagnitude 255 (0 + (e1.format.f : Int)) : Nat) = true ∧
    inrangeRep e1.format .sm (alignedMagnitude 1 (8 + (e1.format.f : Int)) : Nat) = false :=
  ⟨inv_s12, by decide, by decide, by decide⟩

theorem test_premises_JoinStagesTheValue : s12.Inv ∧ s12.Ready ∧ validRep s12.format .sm (s12.sregAt 0) = true := ⟨inv_s12, by decide, by decide⟩

/-- The largest and the smallest 2C top cell, and the first invalid ones. -/
theorem test_premises_ChkAnswersValidity : s12.Inv ∧ s12.Ready ∧ ((num 0 0x7FFFFFFF true).cell 1).toNat < 2 ^ (s12.format.b - 1) ∧
    2 ^ 64 - 2 ^ (s12.format.b - 1) ≤ ((num 0 0xFFFFFFFF80000000 true).cell 1).toNat ∧
    ¬ ((num 0 0x80000000 true).cell 1).toNat < 2 ^ (s12.format.b - 1) :=
  ⟨inv_s12, by decide⟩

/-- n = L = 2 for LIMBLEN of 1.5, n = 1 for its TZLIMB, and n = 0 and n = L for zero. -/
theorem test_premises_LimbQueriesCountZeroLimbs : s12.Ready ∧ 2 ≤ s12.format.l ∧ (s12.sregAt 0).cell 1 ≠ 0 ∧ (s12.sregAt 0).cell 0 = 0 ∧
    ∀ k, k < s12.format.l → (s12.sregAt 2).cell k = 0 := by decide

/-- E1 with T = 2 × 32; I = 33, t = 256 and N = 6 are bad. -/
theorem test_premises_ConstructChecksAndConfigures : s12.Inv ∧ s12.faultV = false ∧ s12.cfgBbp.toNat = 8 ∧ s12.cfgFrac.toNat = 56 ∧
    s12.cfgThresh.toNat = 4 ∧ s12.cfgVcount.toNat = 4 ∧ s12.params.limbBits = 32 ∧ 64 = 2 * 32 ∧ 8 + 56 ≤ 64 ∧ 64 < 8 + 56 + 32 ∧
    ¬ (8 = 0 ∨ 32 < 8 ∨ s12.params.lMax < 2) ∧ ¬ 2 ^ 8 - 1 < 255 ∧ 2 ^ 8 - 1 < 256 ∧ (32 < 33) ∧ (6 % 4 ≠ 0) ∧ s12.params.lMax < 4 ∧
    s12.params.vcap < 12 := ⟨inv_s12, by decide⟩

/-- Only lanes below `VCOUNT` are active. -/
theorem lt_of_isActive {s : State} {n : Nat} (h : s.isActive n = true) : n < s.vcount.toNat := by
  simp only [State.isActive, Bool.and_eq_true, decide_eq_true_eq] at h
  exact h.1.1

/-- The active lanes of v0 and of v1 are valid. -/
theorem valid_v01 : ∀ n, v01.isActive n = true →
    validRep v01.format .sm (v01.laneAt 0 n) = true ∧ validRep v01.format .sm (v01.laneAt 1 n) = true := fun n h =>
  (by decide : ∀ n, n < v01.vcount.toNat →
    validRep v01.format .sm (v01.laneAt 0 n) = true ∧ validRep v01.format .sm (v01.laneAt 1 n) = true) n (lt_of_isActive h)

theorem test_premises_UpddoneLaneByLane : v01.Inv ∧ v01.Ready ∧
    (∀ n, v01.isActive n = true → validRep v01.format .sm (v01.laneAt 0 n) = true) ∧ v01.isActive 3 = true ∧
    v01.isActive 4 = false := ⟨inv_v01, by decide, fun n h => (valid_v01 n h).1, by decide, by decide⟩

theorem test_premises_VcmptWritesEscapeFlags : v01.Inv ∧ v01.Ready ∧
    (∀ n, v01.isActive n = true → validRep v01.format .sm (v01.laneAt 0 n) = true) ∧ v01.isActive 0 = true :=
  ⟨inv_v01, by decide, fun n h => (valid_v01 n h).1, by decide⟩

theorem test_premises_OrstStartsARun : v01.Inv ∧ v01.Ready := ⟨inv_v01, by decide⟩

theorem test_premises_VectorMovesWriteActiveLanes : v01.Inv ∧ v01.Ready ∧ v01.isActive 0 = true ∧ v01.isActive 3 = true :=
  ⟨inv_v01, by decide, by decide, by decide⟩

/-- Lane 3 is the last below `VCOUNT` = 4. -/
theorem test_premises_LaneMovesCopyOneLane : v01.Inv ∧ v01.Ready ∧ LaneImmOk 4095 ∧ 3 < v01.vcount.toNat ∧ v01.vcount.toNat ≤ 4 :=
  ⟨inv_v01, by decide⟩

/-- Lane 1's sum saturates and lane 0's does not; the premise on every lane is `valid_v01`. -/
theorem test_premises_VectorAddSubSaturate : v01.Inv ∧ v01.Ready ∧ (∀ n, v01.isActive n = true →
      validRep v01.format .sm (v01.laneAt 0 n) = true ∧ validRep v01.format .sm (v01.laneAt 1 n) = true) ∧
    inrangeRep v01.format .sm (xRep v01.format .sm (v01.laneAt 0 1) + xRep v01.format .sm (v01.laneAt 1 1)) = false ∧
    inrangeRep v01.format .sm (xRep v01.format .sm (v01.laneAt 0 0) + xRep v01.format .sm (v01.laneAt 1 0)) = true :=
  ⟨inv_v01, by decide, valid_v01, by decide, by decide⟩

/-- v0 = [1.5, −2.0, 0, 3.0] and v1 = [2.0, 2.0, 5.0, 16.0] (R247): products and squares are in range, and ×3 is admitted. -/
def vprod : State := withV (withV e1 0 (q 6) (q (-8)) (q 0) (q 12)) 1 (q 8) (q 8) (q 20) (q 64)

theorem inv_vprod : vprod.Inv := ⟨by decide, by decide, by decide, by decide⟩

theorem test_premises_VectorProductsWriteActiveLanes : vprod.Inv ∧ vprod.Ready ∧ SImmOk 3 ∧ (∀ n, vprod.isActive n = true →
    let f := vprod.format
    let xa := xRep f .sm (vprod.laneAt 0 n)
    (validRep f .sm (vprod.laneAt 0 n) = true ∧ validRep f .sm (vprod.laneAt 1 n) = true) ∧
    inrangeRep f .sm (truncatedProduct f xa (xRep f .sm (vprod.laneAt 1 n))) = true ∧
    inrangeRep f .sm (truncatedProduct f xa xa) = true ∧ muliAdmits f xa 3 ∧ inrangeRep f .sm (xa * 3) = true) := by
  refine ⟨inv_vprod, by decide, by decide, fun n h => ?_⟩
  have key : ∀ n, n < vprod.vcount.toNat →
      let f := vprod.format
      let xa := xRep f .sm (vprod.laneAt 0 n)
      (validRep f .sm (vprod.laneAt 0 n) = true ∧ validRep f .sm (vprod.laneAt 1 n) = true) ∧
      inrangeRep f .sm (truncatedProduct f xa (xRep f .sm (vprod.laneAt 1 n))) = true ∧
      inrangeRep f .sm (truncatedProduct f xa xa) = true ∧
      (xa = 0 ∨ bitlen (xa.natAbs / 2 ^ f.f) + bitlen 3 ≤ f.i) ∧ inrangeRep f .sm (xa * 3) = true := by decide
  obtain ⟨h1, h2, h3, h4, h5⟩ := key n (lt_of_isActive h)
  exact ⟨h1, h2, h3, h4.elim .inl fun h => .inr (.inr h), h5⟩

theorem test_premises_ScalarVectorAgreement : v01.Inv ∧ v01.Ready ∧
    scalarForm (.vadd .sm 2 0 1) = some (2, .add .sm 2 0 1, 0, 1) ∧ scalarForm (.vmuli .tc 2 0 3) = some (2, .muli .tc 2 0 3, 0, 0) ∧
    (after (.vadd .sm 2 0 1) v01).faultV = false ∧ (after (.vmul .sm 2 0 1) v01).faultV = true :=
  ⟨inv_v01, by decide⟩

end Sys2Proof.Machine.Tests
end

section
/-! PROOFS. Every command as the procedure of R310 around one rule, and what a rule can do, said once: the named updates it is
made of, and which command may make which. A frame is proved for one update and carried to the command by `exec_keeps`. -/

namespace Sys2Proof.Machine

/-! ### One procedure and one rule a command (R310) -/

/-- The command is refused before the first `CONSTRUCT` (R303): every one but `NOP` and `CONSTRUCT`. -/
def needsConfig : Instr → Bool
  | .nop | .construct => false
  | _ => true

/-- The rule of a command: what R310 runs on the tentative copy. -/
def commandRule : Instr → State → Except Raised State
  | .nop, s => .ok s
  | .construct, s => ruleConstruct s
  | .orst, s => .ok (s.orchestratorReset s.vcount.toNat)
  | .upddone rep va, s => ruleUpddone rep va s
  | .mov sd sa, s => .ok (s.writeSreg sd (s.sregAt sa))
  | .ldz sd, s => .ok (s.writeSreg sd (encSM s.format 0))
  | .ldmax rep sd, s => .ok (s.writeSreg sd (clampRep s.format rep 1))
  | .ldi rep sd k, s => loadScaled rep sd (k * 2 ^ s.format.f) .convRange s
  | .add rep sd sa sb, s => scalarResult sd (opAdd s.format rep (s.sregAt sa) (s.sregAt sb)) s
  | .sub rep sd sa sb, s => scalarResult sd (opSub s.format rep (s.sregAt sa) (s.sregAt sb)) s
  | .mul rep sd sa sb, s => scalarResult sd (opMul s.format rep (s.sregAt sa) (s.sregAt sb)) s
  | .sqr rep sd sa, s => scalarResult sd (opSqr s.format rep (s.sregAt sa)) s
  | .muli rep sd sa k, s => scalarResult sd (opMuli s.format rep (s.sregAt sa) k) s
  | .cmpt rep sa, s => ruleCmpt rep sa s
  | .cmpm sa sb, s => ruleCmpm sa sb s
  | .totc sd sa, s => ruleTotc sd sa s
  | .fromtc sd sa, s => ruleFromtc sd sa s
  | .split rep sd, s => loadScaled rep sd s.splitValue .convRange s
  | .join rep sa, s => ruleJoin rep sa s
  | .limblen sa, s => .ok (s.setRes (limbLen (s.sregAt sa) s.format.l))
  | .tzlimb sa, s => .ok (s.setRes (tzLimb (s.sregAt sa) s.format.l))
  | .chk rep sa, s => .ok (s.setValid (validRep s.format rep (s.sregAt sa)))
  | .vmov vd va, s => vectorResult vd (fun n => .ok (.plain (s.laneAt va n))) s
  | .vldz vd, s => vectorResult vd (fun _ => .ok (.plain (encSM s.format 0))) s
  | .vbcast vd sa, s => vectorResult vd (fun _ => .ok (.plain (s.sregAt sa))) s
  | .vext sd va lane, s => ruleVext sd va lane s
  | .vins vd sa lane, s => ruleVins vd sa lane s
  | .vadd rep vd va vb, s => vectorResult vd (fun n => opAdd s.format rep (s.laneAt va n) (s.laneAt vb n)) s
  | .vsub rep vd va vb, s => vectorResult vd (fun n => opSub s.format rep (s.laneAt va n) (s.laneAt vb n)) s
  | .vmul rep vd va vb, s => vectorResult vd (fun n => opMul s.format rep (s.laneAt va n) (s.laneAt vb n)) s
  | .vsqr rep vd va, s => vectorResult vd (fun n => opSqr s.format rep (s.laneAt va n)) s
  | .vmuli rep vd va k, s => vectorResult vd (fun n => opMuli s.format rep (s.laneAt va n) k) s
  | .vcmpt rep va, s => ruleVcmpt rep va s

/-- Every command is the procedure of R310 around its rule. -/
theorem exec_eq_runCommand (i : Instr) (s : State) :
    exec i s = runCommand (needsConfig i) (encode i) (commandRule i) s := by
  cases i <;> rfl

/-- Everything a command can do: it is dropped, it faults, or it is accepted and its rule completes. -/
theorem exec_cases {i : Instr} {s t : State} (h : exec i s = .next t) :
    (s.faultV = true ∧ t = s.drop) ∨ (s.faultV = false ∧ ∃ x, t = s.faulted (encode i) x) ∨
      (s.faultV = false ∧ commandRule i s.accept = .ok t) := by
  rw [exec_eq_runCommand] at h
  rcases runCommand_cases h with ⟨hv, ht⟩ | ⟨hv, -, -, ht⟩ | ⟨hv, -, x, -, ht⟩ | ⟨hv, -, hr⟩
  · exact .inl ⟨hv, ht⟩
  · exact .inr (.inl ⟨hv, _, ht⟩)
  · exact .inr (.inl ⟨hv, x, ht⟩)
  · exact .inr (.inr ⟨hv, hr⟩)

/-! ### The updates a rule is made of -/

/-- One lane's part of `UPDDONE` (R283), its escape flag e given: the flag, the count, then the done flag from both. -/
def State.passLane (s : State) (n : Nat) (e : Bool) : State :=
  { s with
    esc := s.esc.set n e
    count := s.count.set n (s.countAt n + 1)
    done := if e || decide (s.target.toNat ≤ (s.countAt n + 1).toNat) then s.done.set n true else s.done }

theorem State.updateLane_eq_passLane (rep : Rep) (va : VReg) (s : State) (n : Nat) :
    State.updateLane rep va s n = s.passLane n (s.geThr rep (s.laneAt va n)) := rfl

/-- Every escape flag rewritten from its lane and its value (R252). -/
def State.mapEsc (s : State) (g : Nat → Bool → Bool) : State := { s with esc := s.esc.mapIdx g }

/-- The updates a rule makes that write no Number and no configuration. -/
inductive PlainWrite where
  | mcarry (n : Nat)
  | acarry
  | done (n : Nat)
  | ge (b : Bool)
  | cmp (c : BitVec 2)
  | valid (b : Bool)
  | res (n : Nat)
  | raw (x : Int)
  | newRun (n : Nat)
  | pass (n : Nat) (e : Bool)
  | retireGroups
  | esc (g : Nat → Bool → Bool)

def PlainWrite.apply (s : State) : PlainWrite → State
  | .mcarry n => s.addMcarry n
  | .acarry => s.bumpAcarry
  | .done n => s.markDone n
  | .ge b => s.setGe b
  | .cmp c => s.setCmp c
  | .valid b => s.setValid b
  | .res n => s.setRes n
  | .raw x => s.writeRaw x
  | .newRun n => s.orchestratorReset n
  | .pass n e => s.passLane n e
  | .retireGroups => s.dropRetiredGroups
  | .esc g => s.mapEsc g

/-- The command may make the update: each flag of R45 has its own commands. -/
def PlainWrite.MadeBy (i : Instr) : PlainWrite → Prop
  | .ge _ => ∃ rep sa, i = .cmpt rep sa
  | .cmp _ => ∃ sa sb, i = .cmpm sa sb
  | .valid _ => ∃ rep sa, i = .chk rep sa
  | .res _ => ∃ sa, i = .limblen sa ∨ i = .tzlimb sa
  | _ => True

/-- One update made by the rule of the command i. -/
inductive RuleWrite (i : Instr) (s : State) : State → Prop
  | plain (p : PlainWrite) (h : p.MadeBy i) : RuleWrite i s (p.apply s)
  | sreg (r : SReg) (a : Number) : RuleWrite i s (s.writeSreg r a)
  | lane (v : VReg) (n : Nat) (a : Number) : RuleWrite i s (s.writeLane v n a)
  | configure (h : i = .construct) (ib f l t th n : Nat) : RuleWrite i s (s.configure ib f l t th n)

/-- The updates a rule makes, one after the other. -/
abbrev RuleWrites (i : Instr) : State → State → Prop := Relation.ReflTransGen (RuleWrite i)

theorem ruleWrites_countResult (i : Instr) (s : State) (r : Result) : RuleWrites i s (s.countResult r) := by
  have hm : RuleWrites i s (s.addMcarry r.mcarries) := .single (.plain (.mcarry r.mcarries) trivial)
  unfold State.countResult
  split
  · exact hm.tail (.plain .acarry trivial)
  · exact hm

theorem ruleWrites_scalarResult {i : Instr} {sd : SReg} {x : Except Cause Result} {s t : State}
    (h : scalarResult sd x s = .ok t) : RuleWrites i s t := by
  obtain ⟨r, -, rfl⟩ := scalarResult_ok h
  exact .head (.sreg sd r.value) (ruleWrites_countResult i _ r)

theorem ruleWrites_loadScaled {i : Instr} {rep : Rep} {sd : SReg} {x : Int} {c : Cause} {s t : State}
    (h : loadScaled rep sd x c s = .ok t) : RuleWrites i s t := by
  obtain ⟨-, rfl⟩ := loadScaled_ok h
  exact .single (.sreg sd _)

theorem ruleWrites_commitLane (i : Instr) (vd : VReg) (s : State) (nr : Nat × Result) :
    RuleWrites i s (State.commitLane vd s nr) := by
  have hc : RuleWrites i s ((s.writeLane vd nr.1 nr.2.value).countResult nr.2) :=
    .head (.lane vd nr.1 nr.2.value) (ruleWrites_countResult i _ nr.2)
  unfold State.commitLane
  split
  · exact hc.tail (.plain (.done nr.1) trivial)
  · exact hc

/-- A loop of updates is a sequence of updates. -/
theorem ruleWrites_foldl {i : Instr} {α : Type} {g : State → α → State} (hg : ∀ s x, RuleWrites i s (g s x))
    (xs : List α) (s : State) : RuleWrites i s (xs.foldl g s) := by
  induction xs generalizing s with
  | nil => exact .refl
  | cons x xs ih => exact (hg s x).trans (ih _)

theorem ruleWrites_vectorResult {i : Instr} {vd : VReg} {op : Nat → Except Cause Result} {s t : State}
    (h : vectorResult vd op s = .ok t) : RuleWrites i s t := by
  obtain ⟨rs, -, rfl⟩ := vectorResult_ok h
  exact ruleWrites_foldl (ruleWrites_commitLane i vd) rs s

/-- A completed `CONSTRUCT` configures the block (R160). -/
theorem ruleConstruct_ok {s t : State} (h : ruleConstruct s = .ok t) :
    ∃ i f l fb th n, t = s.configure i f l fb th n := by
  simp only [ruleConstruct] at h
  split_ifs at h
  exact ⟨_, _, _, _, _, _, (Except.ok.inj h).symm⟩

theorem ruleUpddone_ok {rep : Rep} {va : VReg} {s t : State} (h : ruleUpddone rep va s = .ok t) :
    t = (s.activeLanes.foldl (State.updateLane rep va) s).dropRetiredGroups := by
  unfold ruleUpddone at h
  split at h
  · simp at h
  · exact (Except.ok.inj h).symm

theorem ruleVcmpt_ok {rep : Rep} {va : VReg} {s t : State} (h : ruleVcmpt rep va s = .ok t) :
    t = s.mapEsc fun n e => if s.isActive n then s.geThr rep (s.laneAt va n) else e := by
  unfold ruleVcmpt at h
  split at h
  · simp at h
  · exact (Except.ok.inj h).symm

theorem ruleCmpt_ok {rep : Rep} {sa : SReg} {s t : State} (h : ruleCmpt rep sa s = .ok t) :
    t = s.setGe (s.geThr rep (s.sregAt sa)) := by
  unfold ruleCmpt at h
  split_ifs at h
  exact (Except.ok.inj h).symm

theorem ruleCmpm_ok {sa sb : SReg} {s t : State} (h : ruleCmpm sa sb s = .ok t) :
    t = s.setCmp (cmpCode (mag s.format (s.sregAt sa)) (mag s.format (s.sregAt sb))) := by
  unfold ruleCmpm at h
  split_ifs at h
  exact (Except.ok.inj h).symm

theorem ruleTotc_ok {sd sa : SReg} {s t : State} (h : ruleTotc sd sa s = .ok t) :
    loadScaled .tc sd (xSM s.format (s.sregAt sa)) .convOverflow s = .ok t := by
  unfold ruleTotc at h
  split_ifs at h
  exact h

theorem ruleFromtc_ok {sd sa : SReg} {s t : State} (h : ruleFromtc sd sa s = .ok t) :
    t = s.writeSreg sd (encSM s.format (x2C s.format (s.sregAt sa))) := by
  unfold ruleFromtc at h
  split_ifs at h
  exact (Except.ok.inj h).symm

theorem ruleJoin_ok {rep : Rep} {sa : SReg} {s t : State} (h : ruleJoin rep sa s = .ok t) :
    t = s.writeRaw (xRep s.format rep (s.sregAt sa)) := by
  unfold ruleJoin at h
  split_ifs at h
  exact (Except.ok.inj h).symm

theorem ruleVext_ok {sd : SReg} {va : VReg} {lane : Nat} {s t : State} (h : ruleVext sd va lane s = .ok t) :
    t = s.writeSreg sd (s.laneAt va lane) := by
  unfold ruleVext at h
  split_ifs at h
  exact (Except.ok.inj h).symm

theorem ruleVins_ok {vd : VReg} {sa : SReg} {lane : Nat} {s t : State} (h : ruleVins vd sa lane s = .ok t) :
    t = s.writeLane vd lane (s.sregAt sa) := by
  unfold ruleVins at h
  split_ifs at h
  exact (Except.ok.inj h).symm

/-- Everything a completed rule can do to the state: it is a sequence of the updates that the command may make. -/
theorem commandRule_writes {i : Instr} {s t : State} (h : commandRule i s = .ok t) : RuleWrites i s t := by
  cases i with
  | nop => cases h; exact .refl
  | construct =>
    obtain ⟨ib, f, l, fb, th, n, rfl⟩ := ruleConstruct_ok h
    exact .single (.configure rfl ib f l fb th n)
  | orst => cases h; exact .single (.plain (.newRun _) trivial)
  | upddone rep va =>
    rw [ruleUpddone_ok h]
    have hstep : ∀ s n, RuleWrites (.upddone rep va) s (State.updateLane rep va s n) :=
      fun s n => .single (.plain (.pass n (s.geThr rep (s.laneAt va n))) trivial)
    exact (ruleWrites_foldl hstep _ s).tail (.plain .retireGroups trivial)
  | mov | ldz | ldmax => cases h; exact .single (.sreg _ _)
  | ldi | split => exact ruleWrites_loadScaled h
  | totc => exact ruleWrites_loadScaled (ruleTotc_ok h)
  | add | sub | mul | sqr | muli => exact ruleWrites_scalarResult h
  | cmpt rep sa => rw [ruleCmpt_ok h]; exact .single (.plain (.ge _) ⟨rep, sa, rfl⟩)
  | cmpm sa sb => rw [ruleCmpm_ok h]; exact .single (.plain (.cmp _) ⟨sa, sb, rfl⟩)
  | fromtc => rw [ruleFromtc_ok h]; exact .single (.sreg _ _)
  | join => rw [ruleJoin_ok h]; exact .single (.plain (.raw _) trivial)
  | limblen sa => cases h; exact .single (.plain (.res _) ⟨sa, .inl rfl⟩)
  | tzlimb sa => cases h; exact .single (.plain (.res _) ⟨sa, .inr rfl⟩)
  | chk rep sa => cases h; exact .single (.plain (.valid _) ⟨rep, sa, rfl⟩)
  | vmov | vldz | vbcast | vadd | vsub | vmul | vsqr | vmuli => exact ruleWrites_vectorResult h
  | vext => rw [ruleVext_ok h]; exact .single (.sreg _ _)
  | vins => rw [ruleVins_ok h]; exact .single (.lane _ _ _)
  | vcmpt => rw [ruleVcmpt_ok h]; exact .single (.plain (.esc _) trivial)

/-- What every update of a rule keeps, the rule keeps. -/
theorem RuleWrites.keeps {i : Instr} {P : State → Prop} (hP : ∀ s t, RuleWrite i s t → P s → P t) {s t : State}
    (h : RuleWrites i s t) (hs : P s) : P t := by
  induction h with
  | refl => exact hs
  | tail _ hw ih => exact hP _ _ hw ih

/-- What dropping, faulting, accepting and every update of its rule keep, a command keeps. -/
theorem exec_keeps {i : Instr} {P : State → Prop} {s t : State} (hdrop : P s.drop)
    (hfault : ∀ w x, P (s.faulted w x)) (haccept : P s.accept)
    (hP : ∀ s t, RuleWrite i s t → P s → P t) (h : exec i s = .next t) : P t := by
  rcases exec_cases h with ⟨-, rfl⟩ | ⟨-, x, rfl⟩ | ⟨-, hr⟩
  · exact hdrop
  · exact hfault _ x
  · exact (commandRule_writes hr).keeps hP haccept

end Sys2Proof.Machine
end

section
/-! PROOFS. The frame of the rules, the writers of the flags (R45), and what one move of the host does: the accesses of R81 at
the slots of the window, and the command port (R64, R310). Settled here: O6, O17, O18. -/

namespace Sys2Proof.Machine

/-! ### What no rule changes -/

/-- No update writes the parameters, the enables, the bus and drop flags, the fault record, `CMDCNT`, the `CFG_*` registers,
`TARGET` or the model's own port fields. -/
theorem RuleWrite.frame {i : Instr} {s t : State} (h : RuleWrite i s t) :
    t = { s with
      sregs := t.sregs, vregs := t.vregs, inplay := t.inplay, done := t.done, esc := t.esc, count := t.count
      raw := t.raw, rawExp := t.rawExp, rawSign := t.rawSign, configured := t.configured
      ge := t.ge, cmp := t.cmp, valid := t.valid, res := t.res
      fmtI := t.fmtI, fmtF := t.fmtF, fmtL := t.fmtL, fmtT := t.fmtT, threshMsl := t.threshMsl, vcount := t.vcount
      acarry := t.acarry, mcarry := t.mcarry } := by
  cases h with
  | plain p => cases p <;> rfl
  | sreg | lane | configure => rfl

theorem RuleWrite.params_eq {i : Instr} {s t : State} (h : RuleWrite i s t) : t.params = s.params := by
  rw [h.frame]

theorem RuleWrite.cmdcnt_eq {i : Instr} {s t : State} (h : RuleWrite i s t) : t.cmdcnt = s.cmdcnt := by
  rw [h.frame]

theorem RuleWrite.faultV_eq {i : Instr} {s t : State} (h : RuleWrite i s t) : t.faultV = s.faultV := by
  rw [h.frame]

/-- Only `CMPT` and `CONSTRUCT` write `STATUS.GE` (R45). -/
theorem RuleWrite.ge_eq {i : Instr} {s t : State} (hc : i ≠ .construct) (hi : ∀ rep sa, i ≠ .cmpt rep sa)
    (h : RuleWrite i s t) : t.ge = s.ge := by
  cases h with
  | plain p hp =>
    cases p with
    | ge b => obtain ⟨rep, sa, e⟩ := hp; exact absurd e (hi rep sa)
    | _ => rfl
  | sreg | lane => rfl
  | configure e => exact absurd e hc

/-- Only `CMPM` and `CONSTRUCT` write `STATUS.CMP` (R45). -/
theorem RuleWrite.cmp_eq {i : Instr} {s t : State} (hc : i ≠ .construct) (hi : ∀ sa sb, i ≠ .cmpm sa sb)
    (h : RuleWrite i s t) : t.cmp = s.cmp := by
  cases h with
  | plain p hp =>
    cases p with
    | cmp c => obtain ⟨sa, sb, e⟩ := hp; exact absurd e (hi sa sb)
    | _ => rfl
  | sreg | lane => rfl
  | configure e => exact absurd e hc

/-- Only `CHK` and `CONSTRUCT` write `STATUS.VALID` (R45). -/
theorem RuleWrite.valid_eq {i : Instr} {s t : State} (hc : i ≠ .construct) (hi : ∀ rep sa, i ≠ .chk rep sa)
    (h : RuleWrite i s t) : t.valid = s.valid := by
  cases h with
  | plain p hp =>
    cases p with
    | valid b => obtain ⟨rep, sa, e⟩ := hp; exact absurd e (hi rep sa)
    | _ => rfl
  | sreg | lane => rfl
  | configure e => exact absurd e hc

/-- Only `LIMBLEN`, `TZLIMB` and `CONSTRUCT` write `RES` (R45). -/
theorem RuleWrite.res_eq {i : Instr} {s t : State} (hc : i ≠ .construct)
    (hi : ∀ sa, i ≠ .limblen sa ∧ i ≠ .tzlimb sa) (h : RuleWrite i s t) : t.res = s.res := by
  cases h with
  | plain p hp =>
    cases p with
    | res n =>
      obtain ⟨sa, e | e⟩ := hp
      · exact absurd e (hi sa).1
      · exact absurd e (hi sa).2
    | _ => rfl
  | sreg | lane => rfl
  | configure e => exact absurd e hc

/-- A field that dropping, faulting, accepting and every update of its rule leave alone, a command leaves alone. -/
theorem exec_field_eq {α : Type} (g : State → α) {i : Instr} {s t : State} (hdrop : g s.drop = g s)
    (hfault : ∀ w x, g (s.faulted w x) = g s) (haccept : g s.accept = g s)
    (hw : ∀ s t, RuleWrite i s t → g t = g s) (h : exec i s = .next t) : g t = g s :=
  exec_keeps (P := fun t => g t = g s) hdrop hfault haccept (fun _ _ hr hs => (hw _ _ hr).trans hs) h

theorem exec_params {i : Instr} {s t : State} (h : exec i s = .next t) : t.params = s.params :=
  exec_field_eq State.params rfl (fun _ _ => rfl) rfl (fun _ _ => RuleWrite.params_eq) h

/-- A `CONSTRUCT` that succeeds configures the block and does nothing else but count (R160, R310). -/
theorem exec_construct_ok {s t : State} (hs : s.faultV = false) (h : exec .construct s = .next t)
    (ht : t.faultV = false) : ∃ i f l fb th n, t = s.accept.configure i f l fb th n := by
  rcases exec_cases h with ⟨hv, -⟩ | ⟨-, x, rfl⟩ | ⟨-, hr⟩
  · simp [hv] at hs
  · simp at ht
  · exact ruleConstruct_ok hr

/-! ### One move of the host -/

/-- The 8 bytes of a cell, read back, are the cell (R82). -/
theorem ofNat_leValue_leBytes (v : Cell) : BitVec.ofNat 64 (leValue (leBytes 8 v.toNat)) = v := by
  rw [leValue_leBytes, Nat.mod_eq_of_lt v.isLt, BitVec.ofNat_toNat, BitVec.setWidth_eq]

/-- A write of 8 bytes that is aligned and not at `COMMAND` writes its slot (R81, R82, R90). -/
theorem serve_host8 (o : BitVec 23) (v : Cell) (s : State) (ha : o.toNat % 8 = 0) (hc : o ≠ commandOffset) :
    serve (host8 o v) s = .next (s.writeSlot (slotOf s.params o.toNat) v) := by
  simp [serve, host8, hostWrite, accessOk, ha, hc, ofNat_leValue_leBytes]

/-- A write of 8 bytes at `COMMAND` runs the word in its bits [31:0] (R64). -/
theorem serve_host8_command (v : Cell) (s : State) : serve (host8 0x038 v) s = runWord (v.setWidth 32) s := by
  simp [serve, host8, hostWrite, accessOk, commandOffset, commandWord, ofNat_leValue_leBytes]

/-- A read of 8 bytes that is aligned returns its slot (R81, R82, R90). -/
theorem serve_read8 (o : BitVec 23) (s : State) (ha : o.toNat % 8 = 0) :
    serve (.read o 8) s =
      .next { s with hostData := leBytes 8 (s.readSlot (slotOf s.params o.toNat)).toNat } := by
  simp [serve, hostRead, accessOk, ha]

/-- The slot of `COMMAND` (R50). -/
theorem slotOf_command (p : Params) : slotOf p (0x038 : BitVec 23).toNat = .csr .command := rfl

/-- `COMMAND` reads as 0 (R64). -/
theorem serve_read_command (s : State) :
    serve (.read 0x038 8) s = .next { s with hostData := List.replicate 8 0 } := by
  have hread : s.readSlot (.csr .command) = 0 := rfl
  have hzero : leBytes 8 (0 : Cell).toNat = List.replicate 8 0 := rfl
  rw [serve_read8 _ _ rfl, slotOf_command, hread, hzero]

theorem runWord_of_decode {w : Word} {i : Instr} (h : decode w = .ok i) (s : State) : runWord w s = exec i s := by
  simp [runWord, h]

theorem runWord_of_illegal {w : Word} {e : Illegal} (h : decode w = .error e) (s : State) :
    runWord w s = runIllegal w s := by
  simp [runWord, h]

/-- Everything a write to `COMMAND` can do: the word is dropped, it faults, or it is legal, is accepted and its rule
completes. -/
theorem runWord_cases {w : Word} {s t : State} (h : runWord w s = .next t) :
    (s.faultV = true ∧ t = s.drop) ∨ (s.faultV = false ∧ ∃ w' x, t = s.faulted w' x) ∨
      (s.faultV = false ∧ ∃ i, decode w = .ok i ∧ RuleWrites i s.accept t) := by
  cases hd : decode w with
  | error e =>
    rw [runWord_of_illegal hd, runIllegal] at h
    split_ifs at h with hv
    · exact .inl ⟨hv, (Host.Outcome.next.inj h).symm⟩
    · exact .inr (.inl ⟨by simpa using hv, _, _, (Host.Outcome.next.inj h).symm⟩)
  | ok i =>
    rw [runWord_of_decode hd] at h
    rcases exec_cases h with hdrop | ⟨hv, x, ht⟩ | ⟨hv, hr⟩
    · exact .inl hdrop
    · exact .inr (.inl ⟨hv, _, x, ht⟩)
    · exact .inr (.inr ⟨hv, i, rfl, commandRule_writes hr⟩)

theorem runWord_params {w : Word} {s t : State} (h : runWord w s = .next t) : t.params = s.params := by
  rcases runWord_cases h with ⟨-, rfl⟩ | ⟨-, w', x, rfl⟩ | ⟨-, i, -, hw⟩
  · rfl
  · rfl
  · exact hw.keeps (P := fun t => t.params = s.params) (fun _ _ hr hs => hr.params_eq.trans hs) rfl

@[simp] theorem State.writeCsr_params (s : State) (c : Csr) (v : Cell) : (s.writeCsr c v).params = s.params := by
  cases c with
  | fault => simp only [State.writeCsr]; split <;> rfl
  | _ => rfl

@[simp] theorem State.writeSlot_params (s : State) (sl : Slot) (v : Cell) : (s.writeSlot sl v).params = s.params := by
  cases sl with
  | csr c => exact s.writeCsr_params c v
  | _ => rfl

theorem hostRead_params (o : BitVec 23) (n : Nat) (s : State) : (hostRead o n s).params = s.params := by
  unfold hostRead
  split <;> rfl

theorem hostWrite_params {o : BitVec 23} {data : List Byte} {s t : State} (h : hostWrite o data s = .next t) :
    t.params = s.params := by
  unfold hostWrite at h
  split_ifs at h
  · exact runWord_params h
  · cases h; exact s.writeSlot_params _ _
  · cases h; rfl

/-- No move of the host changes the parameters (R8). -/
theorem step_params {s t : State} (h : step s = .next t) : t.params = s.params := by
  cases hs : s.host with
  | nil => simp [step, hs] at h
  | cons e rest =>
    rw [step_cons hs] at h
    cases e with
    | read o n => cases h; exact hostRead_params o n _
    | write o data => exact hostWrite_params (s := { s with host := rest }) h
    | reset => cases h; rfl

/-! ### The settled statements -/

/-- Settles O6: a step serves the first move, and an access at `COMMAND` runs its word or reads 0. -/
theorem commandWriteRunsTheCommand : Obligations.CommandWriteRunsTheCommand := by
  intro s rest
  refine ⟨fun v i hs hd => ?_, fun v e hs hd => ?_, fun hs => ?_⟩
  · rw [step_cons hs, serve_host8_command, runWord_of_decode hd]
  · rw [step_cons hs, serve_host8_command, runWord_of_illegal hd]
  · rw [step_cons hs, serve_read_command]

/-- The value of `CAP` as a number: legal parameters fit its 64 bits (R52). -/
theorem toNat_capWord {p : Params} (hp : p.Legal) :
    (capWord p).toNat = p.limbBits + p.lMax * 2 ^ 8 + p.vcap * 2 ^ 16 + 16 * 2 ^ 32 + 8 * 2 ^ 40 + 4 * 2 ^ 48 + 2 ^ 56 := by
  obtain ⟨hb, hl, hv⟩ := hp
  simp only [capWord, numSRegs, numVRegs, groupLanes, BitVec.toNat_ofNat]
  omega

/-- Settles O18: the value of `CAP` from legal parameters, which no move changes. -/
theorem capConstant : Obligations.CapConstant := by
  refine ⟨fun s hp => ?_, fun _ => rfl, fun s t h => ?_⟩
  · have hcap : (s.readSlot (slotOf s.params 0x000)).toNat = _ := toNat_capWord hp
    obtain ⟨hb, hl, hv⟩ := hp
    simp only [hcap]
    omega
  · have hp := step_params h
    refine ⟨hp, ?_⟩
    show capWord t.params = capWord s.params
    rw [hp]

/-- An accepted command that faults or completes leaves `CMDCNT` one higher and, if it faults, the old count as its number; a
dropped one leaves `CMDCNT` (R65). -/
theorem runWord_cmdcnt {w : Word} {s t : State} (h : runWord w s = .next t) :
    (s.faultV = false → t.cmdcnt = s.cmdcnt + 1 ∧ (t.faultV = true → t.faultSeq = s.cmdcnt)) ∧
      (s.faultV = true → t.cmdcnt = s.cmdcnt) := by
  rcases runWord_cases h with ⟨hv, rfl⟩ | ⟨hv, w', x, rfl⟩ | ⟨hv, i, -, hw⟩
  · simp [hv]
  · simp [hv]
  · have hcnt : t.cmdcnt = s.cmdcnt + 1 :=
      hw.keeps (P := fun t => t.cmdcnt = s.cmdcnt + 1) (fun _ _ hr hs => hr.cmdcnt_eq.trans hs) rfl
    have hfault : t.faultV = false :=
      hw.keeps (P := fun t => t.faultV = false) (fun _ _ hr hs => hr.faultV_eq.trans hs) hv
    simp [hv, hcnt, hfault]

/-- Settles O17: no update of a rule touches `CMDCNT` or the fault record, so the procedure of R310 alone counts. -/
theorem commandCount : Obligations.CommandCount := by
  refine ⟨fun w s t => runWord_cmdcnt, fun v s => ?_, fun _ => rfl, fun s => ?_, by decide, rfl, fun s hv => ?_, fun s hv => ?_⟩
  · rw [serve_host8 _ _ _ rfl (by decide)]
    rfl
  · rw [HostReads, serve_read8 _ _ rfl]
    rfl
  · rw [exec_eq_runCommand]
    exact runCommand_ok hv (by simp [needsConfig]) rfl
  · simp [exec_eq_runCommand, runCommand, hv, State.drop]

end Sys2Proof.Machine
end

section
/-! PROOFS. What the numeric functions read of a Number: cells below L and the sign (R32). Numbers that agree there have the
same validity and value, and operations on them answer alike. -/

namespace Sys2Proof.Machine

/-! ### What is read of a Number (R32)

The top cell is named `L - 1`, which is cell 0 when L is 0; no configured state has L = 0 (R9). -/

/-- The number of cells the numeric functions read: L, and 1 when L is 0. -/
def Format.readDepth (f : Format) : Nat := max 1 f.l

theorem SameNumber.mono {l m : Nat} {a b : Number} (h : SameNumber m a b) (hl : l ≤ m) : SameNumber l a b :=
  ⟨fun k hk => h.1 k (by omega), h.2⟩

theorem SameNumber.refl (l : Nat) (a : Number) : SameNumber l a a := ⟨fun _ _ => rfl, rfl⟩

theorem SameNumber.atL {f : Format} {a b : Number} (h : SameNumber f.readDepth a b) : SameNumber f.l a b :=
  h.mono (le_max_right 1 f.l)

theorem mag_congr {f : Format} {a b : Number} (h : SameNumber f.l a b) : mag f a = mag f b :=
  sumBelow_congr fun k hk => by rw [h.1 k hk]

theorem wordValue_congr {f : Format} {a b : Number} (h : SameNumber f.l a b) : wordValue f a = wordValue f b :=
  sumBelow_congr fun k hk => by rw [digit, digit, h.1 k hk]

theorem validSM_congr {f : Format} {a b : Number} (h : SameNumber f.l a b) : validSM f a = validSM f b := by
  rw [Bool.eq_iff_iff, validSM, validSM, List.all_eq_true, List.all_eq_true]
  exact forall₂_congr fun k hk => by rw [h.1 k (List.mem_range.1 hk)]

theorem limbLen_congr {a b : Number} {l n : Nat} (h : SameNumber l a b) (hn : n ≤ l) : limbLen a n = limbLen b n := by
  induction n with
  | zero => rfl
  | succ n ih => rw [limbLen, limbLen, h.1 n (by omega), ih (by omega)]

theorem tzLimb_congr {a b : Number} {l : Nat} (h : SameNumber l a b) : tzLimb a l = tzLimb b l := by
  have hfind : ((List.range l).find? fun k => a.cell k != 0) = (List.range l).find? fun k => b.cell k != 0 :=
    List.find?_congr fun k hk => by rw [h.1 k (List.mem_range.1 hk)]
  rw [tzLimb, tzLimb, hfind]

section Reads

variable {f : Format} {a b : Number}

theorem SameNumber.cell_top (h : SameNumber f.readDepth a b) : a.cell (f.l - 1) = b.cell (f.l - 1) :=
  h.1 _ (by unfold Format.readDepth; omega)

theorem valid2C_congr (h : SameNumber f.readDepth a b) : valid2C f a = valid2C f b := by
  have hlow : ((List.range (f.l - 1)).all fun k => decide ((a.cell k).toNat < 2 ^ f.b)) =
      (List.range (f.l - 1)).all fun k => decide ((b.cell k).toNat < 2 ^ f.b) := by
    rw [Bool.eq_iff_iff, List.all_eq_true, List.all_eq_true]
    refine forall₂_congr fun k hk => ?_
    have hk' := List.mem_range.1 hk
    rw [h.atL.1 k (by omega)]
  rw [valid2C, valid2C, hlow, h.cell_top]

theorem validRep_congr (rep : Rep) (h : SameNumber f.readDepth a b) : validRep f rep a = validRep f rep b := by
  cases rep with
  | sm => exact validSM_congr h.atL
  | tc => exact valid2C_congr h

theorem xRep_congr (rep : Rep) (h : SameNumber f.readDepth a b) : xRep f rep a = xRep f rep b := by
  cases rep with
  | sm => rw [xRep, xRep, xSM, xSM, mag_congr h.atL, h.2]
  | tc => rw [xRep, xRep, x2C, x2C, wordValue_congr h.atL]

theorem operand_congr (rep : Rep) (h : SameNumber f.readDepth a b) : operand f rep a = operand f rep b := by
  rw [operand, operand, validRep_congr rep h, xRep_congr rep h]

theorem geThreshold_congr (msl : Nat) (rep : Rep) (h : SameNumber f.readDepth a b) :
    geThreshold f msl rep a = geThreshold f msl rep b := by
  cases rep <;> rw [geThreshold, geThreshold, digit, digit, h.cell_top]

variable {c d : Number}

theorem opMul_congr (rep : Rep) (h : SameNumber f.readDepth a b) (h' : SameNumber f.readDepth c d) :
    opMul f rep a c = opMul f rep b d := by
  rw [opMul, opMul, operand_congr rep h, operand_congr rep h']

theorem opAdd_congr (rep : Rep) (h : SameNumber f.readDepth a b) (h' : SameNumber f.readDepth c d) :
    opAdd f rep a c = opAdd f rep b d := by
  rw [opAdd, opAdd, operand_congr rep h, operand_congr rep h']

theorem opSub_congr (rep : Rep) (h : SameNumber f.readDepth a b) (h' : SameNumber f.readDepth c d) :
    opSub f rep a c = opSub f rep b d := by
  rw [opSub, opSub, operand_congr rep h, operand_congr rep h']

theorem opSqr_congr (rep : Rep) (h : SameNumber f.readDepth a b) : opSqr f rep a = opSqr f rep b := by
  rw [opSqr, opSqr, operand_congr rep h]

theorem opMuli_congr (rep : Rep) (k : Int) (h : SameNumber f.readDepth a b) :
    opMuli f rep a k = opMuli f rep b k := by
  rw [opMuli, opMuli, operand_congr rep h]

end Reads

/-- Writing reads cells 0..L−1 and the sign of the Number it writes (R149). -/
theorem Number.overwrite_congr {l : Nat} {a b : Number} (h : SameNumber l a b) (old : Number) :
    old.overwrite l a = old.overwrite l b := by
  have hcell : (fun k (c : Cell) => if k < l then a.cell k else c) = fun k c => if k < l then b.cell k else c := by
    funext k c
    split_ifs with hk
    · exact h.1 k hk
    · rfl
  rw [overwrite, overwrite, hcell, h.2]

/-! ### Results that agree -/

/-- Two outcomes of a rule or an operation: the same fault, or answers that R relates. -/
inductive SameAnswer {ε α : Type} (R : α → α → Prop) : Except ε α → Except ε α → Prop
  | error (e : ε) : SameAnswer R (.error e) (.error e)
  | ok {x y : α} (h : R x y) : SameAnswer R (.ok x) (.ok y)

theorem SameAnswer.of_eq {ε α : Type} {R : α → α → Prop} (hR : ∀ x, R x x) {x y : Except ε α} (h : x = y) :
    SameAnswer R x y := by
  subst h
  cases x with
  | error e => exact .error e
  | ok x => exact .ok (hR x)

/-- The results write Numbers that agree below L and count alike. -/
def SameResult (l : Nat) (r q : Result) : Prop :=
  SameNumber l r.value q.value ∧ r.mcarries = q.mcarries ∧ r.saturated = q.saturated

theorem SameResult.refl (l : Nat) (r : Result) : SameResult l r r := ⟨.refl l _, rfl, rfl⟩

theorem SameResult.plain {l : Nat} {a b : Number} (h : SameNumber l a b) : SameResult l (.plain a) (.plain b) :=
  ⟨h, rfl, rfl⟩

/-- The same lane, with results that agree. -/
def SameLaneResult (l : Nat) (p q : Nat × Result) : Prop := p.1 = q.1 ∧ SameResult l p.2 q.2

/-- Lane operations that agree at every lane give lane loops that agree (R241). -/
theorem runLanes_congr {l : Nat} {op op' : Nat → Except Cause Result}
    (h : ∀ n, SameAnswer (SameResult l) (op n) (op' n)) (ns : List Nat) :
    SameAnswer (List.Forall₂ (SameLaneResult l)) (runLanes op ns) (runLanes op' ns) := by
  induction ns with
  | nil => exact .ok .nil
  | cons n ns ih =>
    have hn := h n
    unfold runLanes
    generalize op n = x, op' n = x', runLanes op ns = y, runLanes op' ns = y' at hn ih ⊢
    cases hn with
    | error c => exact .error _
    | ok hr =>
      cases ih with
      | error e => exact .error e
      | ok hrs => exact .ok (.cons ⟨rfl, hr⟩ hrs)

/-- Lanes that agree validate alike. -/
theorem validateLanes_congr {f : Format} (rep : Rep) {lane lane' : Nat → Number}
    (h : ∀ n, SameNumber f.readDepth (lane n) (lane' n)) (ns : List Nat) :
    validateLanes f rep lane ns = validateLanes f rep lane' ns := by
  induction ns with
  | nil => rfl
  | cons n ns ih => rw [validateLanes, validateLanes, validRep_congr rep (h n), ih]

end Sys2Proof.Machine
end

section
/-! PROOFS. Noninterference, once for all the relations it is claimed of: a relation between states that every read respects and
every update keeps is kept by every command but `CONSTRUCT`, whose reads are its own. -/

namespace Sys2Proof.Machine

@[simp] theorem State.countResult_format (s : State) (r : Result) : (s.countResult r).format = s.format := by
  rw [State.countResult_eq]
  rfl

@[simp] theorem State.commitLane_format (vd : VReg) (s : State) (nr : Nat × Result) :
    (State.commitLane vd s nr).format = s.format := by
  unfold State.commitLane
  split <;> simp

/-- A relation between states under which no rule tells them apart: related states answer alike whatever a rule but
`CONSTRUCT`'s reads, their Numbers as far as they are read, and every update leads from related states to related states. -/
structure Congruence (R : State → State → Prop) : Prop where
  faultV {s u : State} : R s u → s.faultV = u.faultV
  configured {s u : State} : R s u → s.configured = u.configured
  format {s u : State} : R s u → s.format = u.format
  threshMsl {s u : State} : R s u → s.threshMsl = u.threshMsl
  vcount {s u : State} : R s u → s.vcount = u.vcount
  isActive {s u : State} : R s u → s.isActive = u.isActive
  splitValue {s u : State} : R s u → s.splitValue = u.splitValue
  sreg {s u : State} : R s u → s.configured = true → ∀ r,
    SameNumber s.format.readDepth (s.sregAt r) (u.sregAt r)
  lane {s u : State} : R s u → s.configured = true → ∀ v n,
    SameNumber s.format.readDepth (s.laneAt v n) (u.laneAt v n)
  drop {s u : State} : R s u → R s.drop u.drop
  accept {s u : State} : R s u → R s.accept u.accept
  faulted {s u : State} : R s u → ∀ w x, R (s.faulted w x) (u.faulted w x)
  plain {s u : State} : R s u → ∀ p : PlainWrite, R (p.apply s) (p.apply u)
  writeSreg {s u : State} : R s u → ∀ r {a b : Number}, SameNumber s.format.l a b →
    R (s.writeSreg r a) (u.writeSreg r b)
  writeLane {s u : State} : R s u → ∀ v n {a b : Number}, SameNumber s.format.l a b →
    R (s.writeLane v n a) (u.writeLane v n b)

/-- The procedure of R310 around rules that answer alike. -/
theorem runCommand_congr {Q : State → State → Prop} {nc : Bool} {w : Word} {rule : State → Except Raised State}
    {s u t : State} (hv : s.faultV = u.faultV) (hc : s.configured = u.configured) (hdrop : Q s.drop u.drop)
    (hfault : ∀ x, Q (s.faulted w x) (u.faulted w x))
    (hrule : (nc = true → s.configured = true) → SameAnswer Q (rule s.accept) (rule u.accept))
    (h : runCommand nc w rule s = .next t) : ∃ t', runCommand nc w rule u = .next t' ∧ Q t t' := by
  rcases runCommand_cases h with ⟨hs, rfl⟩ | ⟨hs, rfl, hcs, rfl⟩ | ⟨hs, hcs, x, hr, rfl⟩ | ⟨hs, hcs, hr⟩
  · exact ⟨u.drop, by simp [runCommand, ← hv, hs], hdrop⟩
  · exact ⟨_, by simp [runCommand, ← hv, ← hc, hs, hcs], hfault _⟩
  · have hsame := hrule hcs
    rw [hr] at hsame
    generalize hu : rule u.accept = y at hsame
    cases hsame
    exact ⟨_, runCommand_error (hv ▸ hs) (hc ▸ hcs) hu, hfault x⟩
  · have hsame := hrule hcs
    rw [hr] at hsame
    generalize hu : rule u.accept = y at hsame
    cases hsame with
    | ok hQ => exact ⟨_, runCommand_ok (hv ▸ hs) (hc ▸ hcs) hu, hQ⟩

namespace Congruence

variable {R : State → State → Prop} (hR : Congruence R) {s u : State}

include hR

theorem activeLanes (h : R s u) : s.activeLanes = u.activeLanes := by
  rw [State.activeLanes, State.activeLanes, hR.vcount h, hR.isActive h]

theorem geThr (h : R s u) (rep : Rep) {a b : Number} (hab : SameNumber s.format.readDepth a b) :
    s.geThr rep a = u.geThr rep b := by
  rw [State.geThr, State.geThr, geThreshold_congr _ rep hab, hR.threshMsl h, hR.format h]

theorem countResult (h : R s u) {l : Nat} {r q : Result} (hrq : SameResult l r q) :
    R (s.countResult r) (u.countResult q) := by
  obtain ⟨-, hm, hs⟩ := hrq
  have hcount : R (s.addMcarry r.mcarries) (u.addMcarry r.mcarries) := hR.plain h (.mcarry r.mcarries)
  rw [State.countResult, State.countResult, ← hm, ← hs]
  split
  · exact hR.plain hcount .acarry
  · exact hcount

theorem scalarResult (h : R s u) (sd : SReg) {x y : Except Cause Result} (hxy : x = y) :
    SameAnswer R (scalarResult sd x s) (scalarResult sd y u) := by
  subst hxy
  cases x with
  | error c => exact .error _
  | ok r => exact .ok (hR.countResult (hR.writeSreg h sd (.refl _ r.value)) (.refl s.format.l r))

theorem loadScaled (h : R s u) (rep : Rep) (sd : SReg) {x y : Int} (hxy : x = y) (c : Cause) :
    SameAnswer R (loadScaled rep sd x c s) (loadScaled rep sd y c u) := by
  rw [Machine.loadScaled, Machine.loadScaled, ← hR.format h, hxy]
  split
  · exact .ok (hR.writeSreg h sd (.refl _ _))
  · exact .error _

theorem commitLane (h : R s u) (vd : VReg) {p q : Nat × Result} (hpq : SameLaneResult s.format.l p q) :
    R (State.commitLane vd s p) (State.commitLane vd u q) := by
  obtain ⟨n, r⟩ := p
  obtain ⟨m, q⟩ := q
  obtain ⟨rfl, hrq⟩ := hpq
  have hcount := hR.countResult (hR.writeLane h vd n hrq.1) hrq
  rw [State.commitLane, State.commitLane, ← hrq.2.2]
  split
  · exact hR.plain hcount (.done n)
  · exact hcount

theorem commitLanes (vd : VReg) {l : Nat} {rs qs : List (Nat × Result)}
    (hrq : List.Forall₂ (SameLaneResult l) rs qs) (h : R s u) (hl : s.format.l = l) :
    R (rs.foldl (State.commitLane vd) s) (qs.foldl (State.commitLane vd) u) := by
  induction hrq generalizing s u with
  | nil => exact h
  | cons hpq _ ih =>
    subst hl
    exact ih (hR.commitLane h vd hpq) (by rw [State.commitLane_format])

theorem vectorResult (h : R s u) (vd : VReg) {op op' : Nat → Except Cause Result}
    (hop : ∀ n, SameAnswer (SameResult s.format.l) (op n) (op' n)) :
    SameAnswer R (vectorResult vd op s) (vectorResult vd op' u) := by
  have hlanes := runLanes_congr hop s.activeLanes
  rw [Machine.vectorResult, Machine.vectorResult, ← hR.activeLanes h]
  generalize runLanes op s.activeLanes = x, runLanes op' s.activeLanes = y at hlanes ⊢
  cases hlanes with
  | error e => exact .error e
  | ok hrs => exact .ok (hR.commitLanes vd hrs h rfl)

theorem updateLane (h : R s u) (hc : s.configured = true) (rep : Rep) (va : VReg) (n : Nat) :
    R (State.updateLane rep va s n) (State.updateLane rep va u n) := by
  rw [State.updateLane_eq_passLane, State.updateLane_eq_passLane, ← hR.geThr h rep (hR.lane h hc va n)]
  exact hR.plain h (.pass n _)

theorem updateLanes (rep : Rep) (va : VReg) (ns : List Nat) (h : R s u) (hc : s.configured = true) :
    R (ns.foldl (State.updateLane rep va) s) (ns.foldl (State.updateLane rep va) u) := by
  induction ns generalizing s u with
  | nil => exact h
  | cons n ns ih => exact ih (hR.updateLane h hc rep va n) hc

theorem validateActive (h : R s u) (hc : s.configured = true) (rep : Rep) (va : VReg) :
    validateLanes s.format rep (s.laneAt va) s.activeLanes = validateLanes u.format rep (u.laneAt va) u.activeLanes := by
  rw [← hR.format h, ← hR.activeLanes h, validateLanes_congr rep (hR.lane h hc va)]

theorem ruleUpddone (h : R s u) (hc : s.configured = true) (rep : Rep) (va : VReg) :
    SameAnswer R (ruleUpddone rep va s) (ruleUpddone rep va u) := by
  rw [Machine.ruleUpddone, Machine.ruleUpddone, ← hR.validateActive h hc rep va]
  split
  · exact .error _
  · rw [← hR.activeLanes h]
    exact .ok (hR.plain (hR.updateLanes rep va _ h hc) .retireGroups)

theorem ruleVcmpt (h : R s u) (hc : s.configured = true) (rep : Rep) (va : VReg) :
    SameAnswer R (ruleVcmpt rep va s) (ruleVcmpt rep va u) := by
  have hflag : (fun n e => if s.isActive n then s.geThr rep (s.laneAt va n) else e) =
      fun n e => if u.isActive n then u.geThr rep (u.laneAt va n) else e := by
    funext n e
    rw [← hR.isActive h, hR.geThr h rep (hR.lane h hc va n)]
  rw [Machine.ruleVcmpt, Machine.ruleVcmpt, ← hR.validateActive h hc rep va]
  split
  · exact .error _
  · rw [← hflag]
    exact .ok (hR.plain h (.esc _))

theorem ruleCmpt (h : R s u) (hc : s.configured = true) (rep : Rep) (sa : SReg) :
    SameAnswer R (ruleCmpt rep sa s) (ruleCmpt rep sa u) := by
  rw [Machine.ruleCmpt, Machine.ruleCmpt, ← hR.format h, ← validRep_congr rep (hR.sreg h hc sa),
    ← hR.geThr h rep (hR.sreg h hc sa)]
  split
  · exact .ok (hR.plain h (.ge _))
  · exact .error _

theorem ruleCmpm (h : R s u) (hc : s.configured = true) (sa sb : SReg) :
    SameAnswer R (ruleCmpm sa sb s) (ruleCmpm sa sb u) := by
  have ha := (hR.sreg h hc sa).atL
  have hb := (hR.sreg h hc sb).atL
  rw [Machine.ruleCmpm, Machine.ruleCmpm, ← hR.format h, ← validSM_congr ha, ← validSM_congr hb, ← mag_congr ha,
    ← mag_congr hb]
  split
  · exact .ok (hR.plain h (.cmp _))
  · exact .error _

theorem ruleTotc (h : R s u) (hc : s.configured = true) (sd sa : SReg) :
    SameAnswer R (ruleTotc sd sa s) (ruleTotc sd sa u) := by
  have ha := hR.sreg h hc sa
  rw [Machine.ruleTotc, Machine.ruleTotc, ← hR.format h, ← validSM_congr ha.atL]
  split
  · exact hR.loadScaled h .tc sd (xRep_congr .sm ha) _
  · exact .error _

theorem ruleFromtc (h : R s u) (hc : s.configured = true) (sd sa : SReg) :
    SameAnswer R (ruleFromtc sd sa s) (ruleFromtc sd sa u) := by
  have ha := hR.sreg h hc sa
  have hx : x2C s.format (s.sregAt sa) = x2C s.format (u.sregAt sa) := xRep_congr .tc ha
  rw [Machine.ruleFromtc, Machine.ruleFromtc, ← hR.format h, ← valid2C_congr ha, ← hx]
  split
  · exact .ok (hR.writeSreg h sd (.refl _ _))
  · exact .error _

theorem ruleJoin (h : R s u) (hc : s.configured = true) (rep : Rep) (sa : SReg) :
    SameAnswer R (ruleJoin rep sa s) (ruleJoin rep sa u) := by
  have ha := hR.sreg h hc sa
  rw [Machine.ruleJoin, Machine.ruleJoin, ← hR.format h, ← validRep_congr rep ha, ← xRep_congr rep ha]
  split
  · exact .ok (hR.plain h (.raw _))
  · exact .error _

theorem ruleVext (h : R s u) (hc : s.configured = true) (sd : SReg) (va : VReg) (lane : Nat) :
    SameAnswer R (ruleVext sd va lane s) (ruleVext sd va lane u) := by
  rw [Machine.ruleVext, Machine.ruleVext, ← hR.vcount h]
  split
  · exact .error _
  · exact .ok (hR.writeSreg h sd (hR.lane h hc va lane).atL)

theorem ruleVins (h : R s u) (hc : s.configured = true) (vd : VReg) (sa : SReg) (lane : Nat) :
    SameAnswer R (ruleVins vd sa lane s) (ruleVins vd sa lane u) := by
  rw [Machine.ruleVins, Machine.ruleVins, ← hR.vcount h]
  split
  · exact .error _
  · exact .ok (hR.writeLane h vd lane (hR.sreg h hc sa).atL)

/-- The rule of every command but `CONSTRUCT` answers related states alike. -/
theorem commandRule {i : Instr} (hi : i ≠ .construct) (h : R s u) (hc : needsConfig i = true → s.configured = true) :
    SameAnswer R (commandRule i s) (commandRule i u) := by
  have hf := hR.format h
  have hsreg : needsConfig i = true → ∀ r, SameNumber s.format.readDepth (s.sregAt r) (u.sregAt r) :=
    fun hn => hR.sreg h (hc hn)
  have hlane : needsConfig i = true → ∀ v n, SameNumber s.format.readDepth (s.laneAt v n) (u.laneAt v n) :=
    fun hn => hR.lane h (hc hn)
  have heq : ∀ {x y : Except Cause Result}, x = y → SameAnswer (SameResult s.format.l) x y :=
    .of_eq (SameResult.refl _)
  cases i with
  | nop => exact .ok h
  | construct => exact absurd rfl hi
  | orst =>
    rw [Machine.commandRule, Machine.commandRule, ← hR.vcount h]
    exact .ok (hR.plain h (.newRun _))
  | upddone rep va => exact hR.ruleUpddone h (hc rfl) rep va
  | mov sd sa => exact .ok (hR.writeSreg h sd (hsreg rfl sa).atL)
  | ldz sd => exact .ok (hR.writeSreg h sd (hf ▸ .refl _ _))
  | ldmax rep sd => exact .ok (hR.writeSreg h sd (hf ▸ .refl _ _))
  | ldi rep sd k => exact hR.loadScaled h rep sd (by rw [hf]) _
  | add rep sd sa sb =>
    exact hR.scalarResult h sd ((opAdd_congr rep (hsreg rfl sa) (hsreg rfl sb)).trans (by rw [hf]))
  | sub rep sd sa sb =>
    exact hR.scalarResult h sd ((opSub_congr rep (hsreg rfl sa) (hsreg rfl sb)).trans (by rw [hf]))
  | mul rep sd sa sb =>
    exact hR.scalarResult h sd ((opMul_congr rep (hsreg rfl sa) (hsreg rfl sb)).trans (by rw [hf]))
  | sqr rep sd sa => exact hR.scalarResult h sd ((opSqr_congr rep (hsreg rfl sa)).trans (by rw [hf]))
  | muli rep sd sa k => exact hR.scalarResult h sd ((opMuli_congr rep k (hsreg rfl sa)).trans (by rw [hf]))
  | cmpt rep sa => exact hR.ruleCmpt h (hc rfl) rep sa
  | cmpm sa sb => exact hR.ruleCmpm h (hc rfl) sa sb
  | totc sd sa => exact hR.ruleTotc h (hc rfl) sd sa
  | fromtc sd sa => exact hR.ruleFromtc h (hc rfl) sd sa
  | split rep sd => exact hR.loadScaled h rep sd (hR.splitValue h) _
  | join rep sa => exact hR.ruleJoin h (hc rfl) rep sa
  | limblen sa =>
    rw [Machine.commandRule, Machine.commandRule, ← hf, ← limbLen_congr (hsreg rfl sa).atL le_rfl]
    exact .ok (hR.plain h (.res _))
  | tzlimb sa =>
    rw [Machine.commandRule, Machine.commandRule, ← hf, ← tzLimb_congr (hsreg rfl sa).atL]
    exact .ok (hR.plain h (.res _))
  | chk rep sa =>
    rw [Machine.commandRule, Machine.commandRule, ← hf, ← validRep_congr rep (hsreg rfl sa)]
    exact .ok (hR.plain h (.valid _))
  | vmov vd va => exact hR.vectorResult h vd fun n => .ok (.plain (hlane rfl va n).atL)
  | vldz vd => exact hR.vectorResult h vd fun _ => heq (by rw [hf])
  | vbcast vd sa => exact hR.vectorResult h vd fun _ => .ok (.plain (hsreg rfl sa).atL)
  | vext sd va lane => exact hR.ruleVext h (hc rfl) sd va lane
  | vins vd sa lane => exact hR.ruleVins h (hc rfl) vd sa lane
  | vadd rep vd va vb =>
    exact hR.vectorResult h vd fun n =>
      heq ((opAdd_congr rep (hlane rfl va n) (hlane rfl vb n)).trans (by rw [hf]))
  | vsub rep vd va vb =>
    exact hR.vectorResult h vd fun n =>
      heq ((opSub_congr rep (hlane rfl va n) (hlane rfl vb n)).trans (by rw [hf]))
  | vmul rep vd va vb =>
    exact hR.vectorResult h vd fun n =>
      heq ((opMul_congr rep (hlane rfl va n) (hlane rfl vb n)).trans (by rw [hf]))
  | vsqr rep vd va => exact hR.vectorResult h vd fun n => heq ((opSqr_congr rep (hlane rfl va n)).trans (by rw [hf]))
  | vmuli rep vd va k =>
    exact hR.vectorResult h vd fun n => heq ((opMuli_congr rep k (hlane rfl va n)).trans (by rw [hf]))
  | vcmpt rep va => exact hR.ruleVcmpt h (hc rfl) rep va

/-- Every command but `CONSTRUCT` leads from related states to related states. -/
theorem exec {i : Instr} (hi : i ≠ .construct) (h : R s u) {t : State} (ht : exec i s = .next t) :
    ∃ t', exec i u = .next t' ∧ R t t' := by
  rw [exec_eq_runCommand] at ht ⊢
  exact runCommand_congr (hR.faultV h) (hR.configured h) (hR.drop h) (hR.faulted h _)
    (fun hc => hR.commandRule hi (hR.accept h) hc) ht

end Congruence

/-- The rule of `CONSTRUCT` reads the parameters and `CFG_*` and nothing else (R160). -/
theorem ruleConstruct_congr {Q : State → State → Prop} {s u : State} (hp : s.params = u.params)
    (hb : s.cfgBbp = u.cfgBbp) (hf : s.cfgFrac = u.cfgFrac) (ht : s.cfgThresh = u.cfgThresh)
    (hn : s.cfgVcount = u.cfgVcount)
    (hQ : ∀ i f l t th n, Q (s.configure i f l t th n) (u.configure i f l t th n)) :
    SameAnswer Q (ruleConstruct s) (ruleConstruct u) := by
  simp only [ruleConstruct, ← hp, ← hb, ← hf, ← ht, ← hn]
  split_ifs
  · exact .error _
  · exact .error _
  · exact .error _
  · exact .error _
  · exact .ok (hQ _ _ _ _ _ _)

end Sys2Proof.Machine
end

section
/-! PROOFS. The flags of R45: their writers, and that no command reads one. Settled here: O27. -/

namespace Sys2Proof.Machine

/-- The states differ in nothing but the four flags of R45. -/
def SameButFlags (s u : State) : Prop :=
  ∃ ge cmp valid res, u = { s with ge := ge, cmp := cmp, valid := valid, res := res }

/-- Nothing but their own command reads or writes the flags, so no rule tells states apart that differ in them (R45). -/
theorem congruence_sameButFlags : Congruence SameButFlags where
  faultV := by rintro s _ ⟨_, _, _, _, rfl⟩; rfl
  configured := by rintro s _ ⟨_, _, _, _, rfl⟩; rfl
  format := by rintro s _ ⟨_, _, _, _, rfl⟩; rfl
  threshMsl := by rintro s _ ⟨_, _, _, _, rfl⟩; rfl
  vcount := by rintro s _ ⟨_, _, _, _, rfl⟩; rfl
  isActive := by rintro s _ ⟨_, _, _, _, rfl⟩; rfl
  splitValue := by rintro s _ ⟨_, _, _, _, rfl⟩; rfl
  sreg := by rintro s _ ⟨_, _, _, _, rfl⟩ - r; exact .refl _ _
  lane := by rintro s _ ⟨_, _, _, _, rfl⟩ - v n; exact .refl _ _
  drop := by rintro s _ ⟨_, _, _, _, rfl⟩; exact ⟨_, _, _, _, rfl⟩
  accept := by rintro s _ ⟨_, _, _, _, rfl⟩; exact ⟨_, _, _, _, rfl⟩
  faulted := by rintro s _ ⟨_, _, _, _, rfl⟩ w x; exact ⟨_, _, _, _, rfl⟩
  plain := by rintro s _ ⟨_, _, _, _, rfl⟩ p; cases p <;> exact ⟨_, _, _, _, rfl⟩
  writeSreg := by
    rintro s _ ⟨ge, cmp, valid, res, rfl⟩ r a b hab
    refine ⟨ge, cmp, valid, res, ?_⟩
    rw [State.writeSreg, State.writeSreg, Number.overwrite_congr hab]
    rfl
  writeLane := by
    rintro s _ ⟨ge, cmp, valid, res, rfl⟩ v n a b hab
    refine ⟨ge, cmp, valid, res, ?_⟩
    have hwrite : (Number.overwrite s.format.l · a) = (Number.overwrite s.format.l · b) :=
      funext (Number.overwrite_congr hab)
    rw [State.writeLane, State.writeLane, hwrite]
    rfl

theorem sameButFlags_configure {s u : State} (h : SameButFlags s u) (i f l t th n : Nat) :
    SameButFlags (s.configure i f l t th n) (u.configure i f l t th n) := by
  obtain ⟨_, _, _, _, rfl⟩ := h
  exact ⟨_, _, _, _, rfl⟩

/-- The rule of `CONSTRUCT` reads no flag of R45. -/
theorem ruleConstruct_sameButFlags {s u : State} (h : SameButFlags s u) :
    SameAnswer SameButFlags (ruleConstruct s) (ruleConstruct u) := by
  have hconf := sameButFlags_configure h
  obtain ⟨_, _, _, _, rfl⟩ := h
  exact ruleConstruct_congr rfl rfl rfl rfl rfl hconf

/-- No command reads a flag of R45. -/
theorem exec_sameButFlags {i : Instr} {s u t : State} (h : SameButFlags s u) (ht : exec i s = .next t) :
    ∃ t', exec i u = .next t' ∧ SameButFlags t t' := by
  have hR := congruence_sameButFlags
  by_cases hi : i = .construct
  · subst hi
    rw [exec_eq_runCommand] at ht ⊢
    exact runCommand_congr (hR.faultV h) (hR.configured h) (hR.drop h) (hR.faulted h _)
      (fun _ => ruleConstruct_sameButFlags (hR.accept h)) ht
  · exact hR.exec hi h ht

/-- Settles O27: the writers from the updates each command may make, the rest from the congruence of `SameButFlags`. -/
theorem flagsHaveOneWriter : Obligations.FlagsHaveOneWriter := by
  refine ⟨fun i s t hc h => ⟨fun hi => ?_, fun hi => ?_, fun hi => ?_, fun hi => ?_⟩, fun s t hs h ht => ?_,
    fun i s t ge valid cmp res h => ?_⟩
  · exact exec_field_eq State.ge rfl (fun _ _ => rfl) rfl (fun _ _ => RuleWrite.ge_eq hc hi) h
  · exact exec_field_eq State.cmp rfl (fun _ _ => rfl) rfl (fun _ _ => RuleWrite.cmp_eq hc hi) h
  · exact exec_field_eq State.valid rfl (fun _ _ => rfl) rfl (fun _ _ => RuleWrite.valid_eq hc hi) h
  · exact exec_field_eq State.res rfl (fun _ _ => rfl) rfl (fun _ _ => RuleWrite.res_eq hc hi) h
  · obtain ⟨ib, f, l, fb, th, n, rfl⟩ := exec_construct_ok hs h ht
    exact ⟨rfl, rfl, rfl, rfl⟩
  · obtain ⟨u, hu, _, _, _, _, rfl⟩ := exec_sameButFlags ⟨ge, cmp, valid, res, rfl⟩ h
    exact ⟨_, hu, rfl⟩

end Sys2Proof.Machine
end

section
/-! PROOFS. The cells k ≥ L of registers and lanes (R32): no command but `CONSTRUCT` writes one, and none reads one. Settled
here: O30. -/

namespace Sys2Proof.Machine

/-! ### Writes beyond L -/

theorem RuleWrite.format_eq {i : Instr} {s t : State} (hc : i ≠ .construct) (h : RuleWrite i s t) :
    t.format = s.format := by
  cases h with
  | plain p => cases p <;> rfl
  | sreg | lane => rfl
  | configure e => exact absurd e hc

/-- From s to t no cell k of a register or a lane changed. -/
def KeepsCell (k : Nat) (s t : State) : Prop :=
  (∀ r, (t.sregAt r).cell k = (s.sregAt r).cell k) ∧ ∀ v n, (t.laneAt v n).cell k = (s.laneAt v n).cell k

theorem KeepsCell.refl (k : Nat) (s : State) : KeepsCell k s s := ⟨fun _ => rfl, fun _ _ => rfl⟩

theorem KeepsCell.trans {k : Nat} {s t u : State} (h : KeepsCell k s t) (h' : KeepsCell k t u) : KeepsCell k s u :=
  ⟨fun r => (h'.1 r).trans (h.1 r), fun v n => (h'.2 v n).trans (h.2 v n)⟩

theorem Number.cell_overwrite_of_le {l k : Nat} (hk : l ≤ k) (old new : Number) :
    (old.overwrite l new).cell k = old.cell k := by
  rw [Number.cell_overwrite, if_neg (by omega)]

theorem keepsCell_writeSreg (s : State) (r : SReg) (a : Number) {k : Nat} (hk : s.format.l ≤ k) :
    KeepsCell k s (s.writeSreg r a) := by
  refine ⟨fun q => ?_, fun v n => rfl⟩
  by_cases hq : q = r
  · rw [hq, State.sregAt_writeSreg_self, Number.cell_overwrite_of_le hk]
  · rw [State.sregAt_writeSreg_of_ne s hq]

theorem keepsCell_writeLane (s : State) (v : VReg) (n : Nat) (a : Number) {k : Nat} (hk : s.format.l ≤ k) :
    KeepsCell k s (s.writeLane v n a) := by
  refine ⟨fun r => rfl, fun w m => ?_⟩
  by_cases hw : w = v
  · rw [hw, State.laneAt_writeLane]
    split
    · exact Number.cell_overwrite_of_le hk _ a
    · rfl
  · rw [State.laneAt_writeLane_of_ne s hw]

/-- No update but that of `CONSTRUCT` changes a cell k ≥ L (R32, R149). -/
theorem RuleWrite.keepsCell {i : Instr} {s t : State} (hc : i ≠ .construct) (h : RuleWrite i s t) {k : Nat}
    (hk : s.format.l ≤ k) : KeepsCell k s t := by
  cases h with
  | plain p => cases p <;> exact .refl k s
  | sreg r a => exact keepsCell_writeSreg s r a hk
  | lane v n a => exact keepsCell_writeLane s v n a hk
  | configure e => exact absurd e hc

theorem exec_keepsCell {i : Instr} {s t : State} (hc : i ≠ .construct) (h : exec i s = .next t) {k : Nat}
    (hk : s.format.l ≤ k) : KeepsCell k s t := by
  have hkeep : t.format = s.format ∧ KeepsCell k s t :=
    exec_keeps (P := fun t => t.format = s.format ∧ KeepsCell k s t) ⟨rfl, .refl k s⟩ (fun _ _ => ⟨rfl, .refl k s⟩)
      ⟨rfl, .refl k s⟩
      (fun _ _ hw hp => ⟨(hw.format_eq hc).trans hp.1, hp.2.trans (hw.keepsCell hc (hp.1 ▸ hk))⟩) h
  exact hkeep.2

/-! ### Reads beyond L -/

theorem AgreeBelow.overwrite {l : Nat} {old old' a b : Number} (ho : AgreeBelow l old old') (hab : SameNumber l a b) :
    AgreeBelow l (old.overwrite l a) (old'.overwrite l b) := by
  obtain ⟨hlen, hcell, -⟩ := ho
  refine ⟨by simp [hlen], fun k hk => ?_, hab.2⟩
  rw [Number.cell_overwrite, Number.cell_overwrite, hlen, hab.1 k hk, hcell k hk]

theorem AgreeUpToL.writeSreg {s u : State} (h : AgreeUpToL s u) (r : SReg) {a b : Number}
    (hab : SameNumber s.format.l a b) : AgreeUpToL (s.writeSreg r a) (u.writeSreg r b) := by
  obtain ⟨hu, hs, hv⟩ := h
  have hf : u.format = s.format := by rw [hu]; rfl
  refine ⟨by rw [hu]; rfl, fun q => ?_, hv⟩
  by_cases hq : q = r
  · rw [hq, State.sregAt_writeSreg_self, State.sregAt_writeSreg_self, hf]
    exact (hs r).overwrite hab
  · rw [State.sregAt_writeSreg_of_ne s hq, State.sregAt_writeSreg_of_ne u hq]
    exact hs q

theorem AgreeUpToL.writeLane {s u : State} (h : AgreeUpToL s u) (v : VReg) (n : Nat) {a b : Number}
    (hab : SameNumber s.format.l a b) : AgreeUpToL (s.writeLane v n a) (u.writeLane v n b) := by
  obtain ⟨hu, hs, hv⟩ := h
  have hf : u.format = s.format := by rw [hu]; rfl
  refine ⟨by rw [hu]; rfl, hs, fun w => ?_⟩
  by_cases hw : w = v
  · obtain ⟨hlen, hlane⟩ := hv v
    subst hw
    refine ⟨by simp [hlen], fun m => ?_⟩
    rw [State.laneAt_writeLane, State.laneAt_writeLane, hf, ← hlen]
    split
    · exact (hlane m).overwrite hab
    · exact hlane m
  · rw [State.vregAt_writeLane_of_ne s hw, State.vregAt_writeLane_of_ne u hw]
    refine ⟨(hv w).1, fun m => ?_⟩
    rw [State.laneAt_writeLane_of_ne s hw, State.laneAt_writeLane_of_ne u hw]
    exact (hv w).2 m

/-- The states differ in nothing but cells k ≥ L, and L is not 0 once the block is configured (R32, R9). -/
def AgreeWhereRead (s u : State) : Prop := AgreeUpToL s u ∧ (s.configured = true → 1 ≤ s.format.l)

theorem SameNumber.readDepth {f : Format} (hl : 1 ≤ f.l) {a b : Number} (h : SameNumber f.l a b) :
    SameNumber f.readDepth a b :=
  h.mono (max_le hl le_rfl)

/-- Every rule reads Numbers below L only, so no rule tells states apart that differ beyond it (R32). -/
theorem congruence_agreeWhereRead : Congruence AgreeWhereRead where
  faultV := by rintro s u ⟨⟨hu, -⟩, -⟩; rw [hu]
  configured := by rintro s u ⟨⟨hu, -⟩, -⟩; rw [hu]
  format := by rintro s u ⟨⟨hu, -⟩, -⟩; rw [hu]; rfl
  threshMsl := by rintro s u ⟨⟨hu, -⟩, -⟩; rw [hu]
  vcount := by rintro s u ⟨⟨hu, -⟩, -⟩; rw [hu]
  isActive := by rintro s u ⟨⟨hu, -⟩, -⟩; rw [hu]; rfl
  splitValue := by rintro s u ⟨⟨hu, -⟩, -⟩; rw [hu]; rfl
  sreg := by rintro s u ⟨⟨-, hs, -⟩, hl⟩ hc r; exact (hs r).2.readDepth (hl hc)
  lane := by rintro s u ⟨⟨-, -, hv⟩, hl⟩ hc v n; exact ((hv v).2 n).2.readDepth (hl hc)
  drop := by rintro s u ⟨⟨hu, hs, hv⟩, hl⟩; exact ⟨⟨by rw [hu]; rfl, hs, hv⟩, hl⟩
  accept := by rintro s u ⟨⟨hu, hs, hv⟩, hl⟩; exact ⟨⟨by rw [hu]; rfl, hs, hv⟩, hl⟩
  faulted := by rintro s u ⟨⟨hu, hs, hv⟩, hl⟩ w x; exact ⟨⟨by rw [hu]; rfl, hs, hv⟩, hl⟩
  plain := by
    rintro s u ⟨⟨hu, hs, hv⟩, hl⟩ p
    cases p <;> exact ⟨⟨by rw [hu]; rfl, hs, hv⟩, hl⟩
  writeSreg := by rintro s u ⟨h, hl⟩ r a b hab; exact ⟨h.writeSreg r hab, hl⟩
  writeLane := by rintro s u ⟨h, hl⟩ v n a b hab; exact ⟨h.writeLane v n hab, hl⟩

theorem State.sregAt_configure (s : State) (i f l t th n : Nat) (r : SReg) :
    (s.configure i f l t th n).sregAt r = Number.cleared s.params := by
  simp [State.configure, State.sregAt]

theorem State.vregAt_configure (s : State) (i f l t th n : Nat) (v : VReg) :
    (s.configure i f l t th n).vregAt v = List.replicate s.params.vcap (Number.cleared s.params) := by
  simp [State.configure, State.vregAt]

/-- After `CONSTRUCT` every cell is 0 (R160). -/
theorem cell_configure (s : State) (i f l t th n k : Nat) :
    (∀ r, ((s.configure i f l t th n).sregAt r).cell k = 0) ∧
      ∀ v m, ((s.configure i f l t th n).laneAt v m).cell k = 0 := by
  have hcleared : (Number.cleared s.params).cell k = 0 := by
    simp [Number.cleared, Number.cell]
  refine ⟨fun r => ?_, fun v m => ?_⟩
  · rw [State.sregAt_configure, hcleared]
  · rw [State.laneAt, State.vregAt_configure]
    by_cases hm : m < s.params.vcap
    · rw [List.getD_replicate _ hm, hcleared]
    · rw [List.getD_eq_default _ _ (by simpa using hm)]
      rfl

/-- `CONSTRUCT` reads no Number and writes them all, so the states it leads to agree as the ones it left (R32, R160). -/
theorem AgreeUpToL.exec_construct {s u t : State} (h : AgreeUpToL s u) (ht : exec .construct s = .next t) :
    ∃ t', exec .construct u = .next t' ∧ AgreeUpToL t t' := by
  obtain ⟨hu, hs, hv⟩ := h
  rw [exec_eq_runCommand] at ht ⊢
  refine runCommand_congr (by rw [hu]) (by rw [hu]) ⟨by rw [hu]; rfl, hs, hv⟩
    (fun x => ⟨by rw [hu]; rfl, hs, hv⟩) (fun _ => ?_) ht
  have hp : u.params = s.params := by rw [hu]
  refine ruleConstruct_congr hp.symm (by rw [hu]; rfl) (by rw [hu]; rfl) (by rw [hu]; rfl) (by rw [hu]; rfl) ?_
  intro i f l t th n
  have hconf : u.accept.configure i f l t th n = s.accept.configure i f l t th n := by rw [hu]; rfl
  rw [hconf]
  exact ⟨rfl, fun _ => ⟨rfl, .refl _ _⟩, fun _ => ⟨rfl, fun _ => ⟨rfl, .refl _ _⟩⟩⟩

/-- No command reads a cell k ≥ L (R32). -/
theorem AgreeUpToL.exec {i : Instr} {s u t : State} (hs : s.Inv) (h : AgreeUpToL s u) (ht : exec i s = .next t) :
    ∃ t', exec i u = .next t' ∧ AgreeUpToL t t' := by
  by_cases hi : i = .construct
  · subst hi
    exact h.exec_construct ht
  · obtain ⟨-, -, ⟨-, hconf⟩, -⟩ := hs
    have hl : s.configured = true → 1 ≤ s.format.l := fun hc => by
      obtain ⟨⟨-, -, ⟨hl, -⟩, -⟩, -⟩ := hconf hc
      exact hl
    obtain ⟨t', ht', hag, -⟩ := congruence_agreeWhereRead.exec hi ⟨h, hl⟩ ht
    exact ⟨t', ht', hag⟩

/-- Settles O30: writes from the frame of every update, reads from the congruence of `AgreeWhereRead`. -/
theorem cellsBeyondL : Obligations.CellsBeyondL := by
  refine ⟨fun i s t hi h k hk => exec_keepsCell hi h hk, fun i s t s' hs h ht => h.exec hs ht, fun s t hs h ht k => ?_⟩
  obtain ⟨ib, f, l, fb, th, n, rfl⟩ := exec_construct_ok hs h ht
  exact cell_configure s.accept ib f l fb th n k

end Sys2Proof.Machine
end

section
/-! PROOFS. Where the offsets of the window lie in its table: the slots of R84 to R86 by register, row and lane, and the offsets
that name no slot (R88). Settled here: O15. -/

namespace Sys2Proof.Machine

/-! ### The slot at an offset of each view -/

/-- The scalar view: register r at row k (R84). -/
theorem slotOf_scalar (p : Params) {r k : Nat} (hr : r < 16) (hk : k < 64) :
    slotOf p (0x002000 + 0x200 * r + 8 * k) = scalarSlot p r k := by
  have hreg : (0x002000 + 0x200 * r + 8 * k - 0x002000) / 0x200 = r := by omega
  have hrow : (0x002000 + 0x200 * r + 8 * k - 0x002000) % 0x200 / 8 = k := by omega
  simp (disch := omega) only [slotOf, if_neg, if_pos, hreg, hrow]

/-- The `COUNT` view: the slots up to 0x005FF8, of which those n ≥ `VCAP` are reserved (R80, R85). -/
theorem slotOf_count (p : Params) {n : Nat} (hn : n < 1024) :
    slotOf p (0x004000 + 8 * n) = if n < p.vcap then .count n else .reserved := by
  have hidx : (0x004000 + 8 * n - 0x004000) / 8 = n := by omega
  simp (disch := omega) only [slotOf, if_neg, if_pos, hidx]

/-- The lane view: lane n of container v at row k (R86). -/
theorem slotOf_lane (p : Params) {v k n : Nat} (hv : v < 8) (hk : k < 64) (hn : n < 1024) :
    slotOf p (0x100000 + 0x80000 * v + 0x2000 * k + 8 * n) = laneSlot p v k n := by
  have hvec : (0x100000 + 0x80000 * v + 0x2000 * k + 8 * n - 0x100000) / 0x80000 = v := by omega
  have hrow : (0x100000 + 0x80000 * v + 0x2000 * k + 8 * n - 0x100000) % 0x80000 / 0x2000 = k := by omega
  have hlane : (0x100000 + 0x80000 * v + 0x2000 * k + 8 * n - 0x100000) % 0x2000 / 8 = n := by omega
  simp (disch := omega) only [slotOf, if_neg, if_pos, hvec, hrow, hlane]

/-! ### Reserved slots (R88) -/

/-- R50 lists 22 control registers. -/
theorem csrOf_reserved {c : Nat} (hc : 0x16 ≤ c) : csrOf c = .reserved := by
  obtain ⟨d, rfl⟩ := Nat.exists_eq_add_of_le' hc
  rfl

theorem scalarSlot_reserved {p : Params} (r : Nat) {k : Nat} (hlo : p.lMax ≤ k) (hhi : k < 63) :
    scalarSlot p r k = .reserved := by
  rw [scalarSlot, if_neg (by omega), if_neg (by omega)]

theorem laneSlot_reserved {p : Params} (v : Nat) {k n : Nat} (h : (p.lMax ≤ k ∧ k < 63) ∨ p.vcap ≤ n) :
    laneSlot p v k n = .reserved := by
  unfold laneSlot
  rcases h with ⟨hlo, hhi⟩ | hn
  · rw [if_neg (by omega : ¬ k < p.lMax), if_neg (by omega : k ≠ 63), ite_self]
  · rw [if_neg (by omega)]

/-- Every offset left reserved by R50, R80 and R84 to R86 names the reserved slot. -/
theorem slotOf_reserved {p : Params} {o : Nat} (h : ReservedOffset p o) : slotOf p o = .reserved := by
  rcases h with hcsr | hgap | ⟨r, k, hr, hlo, hhi, rfl⟩ | ⟨n, hn, rfl, hend⟩ | hgap | hgap | hgap |
    ⟨v, k, n, hv, hk, hn, hres, rfl⟩ | hend
  · simp (disch := omega) only [slotOf, if_pos, csrOf_reserved]
  · simp (disch := omega) only [slotOf, if_neg, if_pos]
  · rw [slotOf_scalar p hr (by omega), scalarSlot_reserved r hlo hhi]
  · rw [slotOf_count p (by omega), if_neg (by omega)]
  · simp (disch := omega) only [slotOf, if_neg, if_pos]
  · simp (disch := omega) only [slotOf, if_neg, if_pos]
  · simp (disch := omega) only [slotOf, if_neg, if_pos]
  · rw [slotOf_lane p hv hk hn, laneSlot_reserved v hres]
  · simp (disch := omega) only [slotOf, if_neg]

/-- Settles O15: the reserved slot reads 0 and a write to it is void; it is not the slot of `COMMAND`. -/
theorem reservedOffsets : Obligations.ReservedOffsets := by
  intro o s _ ha hres
  have hslot : slotOf s.params o.toNat = .reserved := slotOf_reserved hres
  refine ⟨?_, fun v => ?_⟩
  · have hread : s.readSlot .reserved = 0 := rfl
    have hzero : leBytes 8 (0 : Cell).toNat = List.replicate 8 0 := rfl
    rw [serve_read8 o s ha, hslot, hread, hzero]
  · have hcmd : o ≠ commandOffset := by
      rintro rfl
      have hcommand : slotOf s.params commandOffset.toNat = .csr .command := slotOf_command s.params
      rw [hcommand] at hslot
      cases hslot
    rw [serve_host8 o v s ha hcmd, hslot]
    rfl

end Sys2Proof.Machine
end

section
/-! PROOFS. Which words are legal (R116): a clause about a field says that some bits of the word are 0, so the clauses of a row
of the opcode map are one test against a mask, and that mask is the table's. Settled here: O3, O4. -/

namespace Sys2Proof.Machine

/-! ### Fields as masks (R111) -/

/-- The mask of the bits [hi:lo] of a word. -/
def fieldMask (hi lo : Nat) : Word := BitVec.ofNat 32 (2 ^ (hi - lo + 1) - 1) <<< lo

theorem getLsbD_fieldMask {hi lo k : Nat} (hlo : lo ≤ hi) (hk : k < 32) :
    (fieldMask hi lo).getLsbD k = decide (lo ≤ k ∧ k ≤ hi) := by
  simp only [fieldMask, BitVec.getLsbD_shiftLeft, BitVec.getLsbD_ofNat, Nat.testBit_two_pow_sub_one]
  grind

/-- Bit j of a field is bit lo + j of the word. -/
theorem testBit_bits (w : Word) (hi lo j : Nat) :
    (bits w hi lo).testBit j = (decide (j < hi - lo + 1) && w.getLsbD (lo + j)) := by
  simp only [bits, Nat.testBit_mod_two_pow, Nat.testBit_div_two_pow, BitVec.getLsbD, Nat.add_comm]

/-- A field is 0 exactly when the word has no bit under the field's mask. -/
theorem bits_eq_zero_iff (w : Word) {hi lo : Nat} (hlo : lo ≤ hi) : bits w hi lo = 0 ↔ w &&& fieldMask hi lo = 0#32 := by
  constructor
  · intro h
    refine BitVec.eq_of_getLsbD_eq fun k hk => ?_
    have hbit := testBit_bits w hi lo (k - lo)
    rw [h, Nat.zero_testBit] at hbit
    rw [BitVec.getLsbD_and, getLsbD_fieldMask hlo hk, BitVec.getLsbD_zero]
    grind
  · intro h
    refine Nat.eq_of_testBit_eq fun j => ?_
    have hbit := congrArg (BitVec.getLsbD · (lo + j)) h
    simp only [BitVec.getLsbD_and, BitVec.getLsbD_zero] at hbit
    rw [testBit_bits, Nat.zero_testBit]
    by_cases hj : lo + j < 32
    · rw [getLsbD_fieldMask hlo hj] at hbit
      grind
    · rw [BitVec.getLsbD_of_ge _ _ (by omega), Bool.and_false]

/-- The upper bit of a 4-bit field is 0 exactly when the field is below 8 (R116). -/
theorem bits_lt_eight_iff (w : Word) (lo : Nat) : bits w (lo + 3) lo < 8 ↔ bits w (lo + 3) (lo + 3) = 0 := by
  have hsplit : w.toNat / 2 ^ (lo + 3) = w.toNat / 2 ^ lo / 8 := by rw [pow_add, Nat.div_div_eq_div_mul]; rfl
  simp only [bits, hsplit, Nat.add_sub_cancel_left, Nat.sub_self]
  omega

/-- The opcode is the word under the mask of bits [7:0]. -/
theorem opcOf_eq_iff (w : Word) {n : Nat} (hn : n < 256) : opcOf w = n ↔ w &&& 0xFF = BitVec.ofNat 32 n := by
  have hmask : (w &&& 0xFF).toNat = opcOf w := by simp [opcOf, bits, Nat.and_two_pow_sub_one_eq_mod _ 8]
  rw [← BitVec.toNat_inj, hmask, BitVec.toNat_ofNat, Nat.mod_eq_of_lt (by omega)]

/-- One mask tests two conditions, where the pattern lies under the first mask only. -/
theorem and_or_eq_iff {w a b p : Word} (ha : p &&& a = p) (hb : p &&& b = 0#32) :
    w &&& (a ||| b) = p ↔ w &&& a = p ∧ w &&& b = 0#32 := by
  constructor
  · rintro rfl
    rw [BitVec.and_assoc] at ha hb
    have hleft : (a ||| b) &&& a = a := by ext; simp; grind
    have hright : (a ||| b) &&& b = b := by ext; simp; grind
    exact ⟨by rw [← ha, hleft], by rw [← hb, hright]⟩
  · rintro ⟨ha', hb'⟩
    rw [BitVec.and_or_distrib_left, ha', hb', BitVec.or_zero]

/-! ### The mask of a row (R115, R116) -/

/-- The bits of the 4-bit field at lo that its use makes 0: all of a field marked 0, bit 3 of one marked V (R113). -/
def FieldUse.mask (u : FieldUse) (lo : Nat) : Word :=
  match u with
  | .zero => fieldMask (lo + 3) lo
  | .v => fieldMask (lo + 3) (lo + 3)
  | .s | .imm => 0#32

/-- The bits that a row makes 0. -/
def MapRow.zeroMask (r : MapRow) : Word :=
  fieldMask 11 9 ||| ((if r.formatR = true then fieldMask 31 24 else 0#32) ||| (r.rd.mask 12 ||| (r.ra.mask 16 |||
    (r.rb.mask 20 ||| (if r.rep = false then fieldMask 8 8 else 0#32)))))

/-- A field has a value its use allows exactly when the word has no bit under the use's mask. -/
theorem allows_iff (u : FieldUse) (w : Word) (lo : Nat) : u.Allows (bits w (lo + 3) lo) ↔ w &&& u.mask lo = 0#32 := by
  cases u with
  | zero => simp [FieldUse.Allows, FieldUse.mask, bits_eq_zero_iff w (Nat.le_add_right lo 3)]
  | v => simp [FieldUse.Allows, FieldUse.mask, bits_lt_eight_iff, bits_eq_zero_iff w (Nat.le_refl (lo + 3))]
  | s => simp [FieldUse.Allows, FieldUse.mask]
  | imm => simp [FieldUse.Allows, FieldUse.mask]

/-- A clause that holds under a condition is a mask that is empty without it. -/
theorem and_ite_eq_zero_iff (p : Prop) [Decidable p] (w m : Word) :
    w &&& (if p then m else 0#32) = 0#32 ↔ (p → w &&& m = 0#32) := by
  split <;> simp [*]

/-- A row of the map is obeyed exactly when the word has the row's opcode and no bit that the row makes 0. -/
theorem obeyed_iff_zeroMask (r : MapRow) (w : Word) : r.Obeyed w ↔ opcOf w = r.opc ∧ w &&& r.zeroMask = 0#32 := by
  simp only [MapRow.Obeyed, MapRow.zeroMask, rdOf, raOf, rbOf, allows_iff _ w, BitVec.and_or_distrib_left,
    BitVec.or_eq_zero_iff, and_ite_eq_zero_iff, bits_eq_zero_iff w (show 9 ≤ 11 by decide),
    bits_eq_zero_iff w (show 24 ≤ 31 by decide), bits_eq_zero_iff w (show 8 ≤ 8 by decide)]

/-- The opcodes of the map are bytes, and no row makes a bit of its opcode 0. -/
theorem opcodeMap_opc : ∀ r ∈ opcodeMap, r.opc < 256 ∧ BitVec.ofNat 32 r.opc &&& 0xFF = BitVec.ofNat 32 r.opc ∧
    BitVec.ofNat 32 r.opc &&& r.zeroMask = 0#32 := by decide

/-- The table of R116 is the map of R115, row by row: the mask is the opcode byte and the bits made 0. -/
theorem opcodeTable_masks : opcodeTable.map (fun r => (r.mask, r.pattern)) =
    opcodeMap.map (fun r => (0xFF ||| r.zeroMask, BitVec.ofNat 32 r.opc)) := by decide

/-- A row of the map is obeyed exactly when the word matches the mask and the pattern it gives. -/
theorem obeyed_iff_and_eq {r : MapRow} (hr : r ∈ opcodeMap) (w : Word) :
    r.Obeyed w ↔ w &&& (0xFF ||| r.zeroMask) = BitVec.ofNat 32 r.opc := by
  obtain ⟨hbyte, hopc, hzero⟩ := opcodeMap_opc r hr
  rw [obeyed_iff_zeroMask, opcOf_eq_iff w hbyte, and_or_eq_iff hopc hzero]

/-- The two forms of R116 agree: by its clauses, and by the mask and match table. -/
theorem legalWord_iff_rowMatches (w : Word) : LegalWord w ↔ ∃ r ∈ opcodeTable, rowMatches r w = true :=
  calc LegalWord w ↔ ∃ x ∈ opcodeMap.map (fun r => (0xFF ||| r.zeroMask, BitVec.ofNat 32 r.opc)), w &&& x.1 = x.2 := by
        simp only [List.mem_map, exists_exists_and_eq_and]
        exact exists_congr fun r => and_congr_right fun hr => obeyed_iff_and_eq hr w
    _ ↔ ∃ x ∈ opcodeTable.map (fun r => (r.mask, r.pattern)), w &&& x.1 = x.2 := by rw [opcodeTable_masks]
    _ ↔ ∃ r ∈ opcodeTable, rowMatches r w = true := by simp [rowMatches]

/-! ### The rows are disjoint (R116) -/

/-- Every row tests the whole opcode byte. -/
theorem opcodeTable_opcode_byte : ∀ r ∈ opcodeTable, r.mask &&& 0xFF = 0xFF ∧ r.pattern &&& 0xFF = r.pattern := by decide

theorem opcodeTable_pattern_nodup : (opcodeTable.map Row.pattern).Nodup := by decide

/-- The pattern of the row that matches a word is the word's opcode. -/
theorem pattern_of_rowMatches {r : Row} (hr : r ∈ opcodeTable) {w : Word} (h : rowMatches r w = true) :
    r.pattern = w &&& 0xFF := by
  obtain ⟨hmask, hpat⟩ := opcodeTable_opcode_byte r hr
  have hw : w &&& r.mask = r.pattern := by simpa [rowMatches] using h
  rw [← hpat, ← hw, BitVec.and_assoc, hmask]

/-- Rows with the same pattern are the same row. -/
theorem row_eq_of_pattern {r q : Row} (hr : r ∈ opcodeTable) (hq : q ∈ opcodeTable) (h : r.pattern = q.pattern) : r = q :=
  List.inj_on_of_nodup_map opcodeTable_pattern_nodup hr hq h

/-! ### What the decoder accepts -/

/-- A check followed by the rest succeeds exactly when both do. -/
theorem bind_eq_ok_iff {ε α β : Type} {x : Except ε α} {k : α → Except ε β} {b : β} :
    (x >>= k) = .ok b ↔ ∃ a, x = .ok a ∧ k a = .ok b := by
  cases x <;> simp [bind, Except.bind]

theorem formatR_ok (w : Word) (u : Unit) : formatR w = .ok u ↔ bits w 31 24 = 0 := by simp [formatR]
theorem noRep_ok (w : Word) (u : Unit) : noRep w = .ok u ↔ bits w 8 8 = 0 := by simp [noRep]
theorem reservedLow_ok (w : Word) (u : Unit) : reservedLow w = .ok u ↔ bits w 11 9 = 0 := by simp [reservedLow]
theorem zeroField_ok (n : Nat) (u : Unit) : zeroField n = .ok u ↔ n = 0 := by simp [zeroField]

theorem vreg_ok (n : Nat) (v : VReg) : vreg n = .ok v ↔ n = v.val := by
  unfold vreg
  split
  case isTrue => simp [Fin.ext_iff]
  case isFalse h =>
    have hlt := v.isLt
    simp only [reduceCtorEq, false_iff]
    omega

/-- A field is a lane container's number exactly when it is below 8 (R113). -/
theorem exists_vreg_iff (n : Nat) : (∃ v : VReg, n = v.val) ↔ n < 8 :=
  ⟨fun ⟨v, h⟩ => h ▸ v.isLt, fun h => ⟨⟨n, h⟩, rfl⟩⟩

/-- A row of the map is obeyed by the clauses in the order in which the decoder tests them: REP before the register fields. -/
theorem obeyed_iff_in_decode_order (r : MapRow) (w : Word) : r.Obeyed w ↔ bits w 11 9 = 0 ∧ opcOf w = r.opc ∧
    (r.formatR = true → bits w 31 24 = 0) ∧ (r.rep = false → bits w 8 8 = 0) ∧ r.rd.Allows (rdOf w) ∧
    r.ra.Allows (raOf w) ∧ r.rb.Allows (rbOf w) := by
  unfold MapRow.Obeyed
  tauto

theorem decode_ok_iff (w : Word) (i : Instr) : decode w = .ok i ↔ bits w 11 9 = 0 ∧ decodeOp w = .ok i := by
  simp only [decode, bind_eq_ok_iff, reservedLow_ok, exists_const]

/-- The decoder's arm for a row's opcode tests exactly that row's clauses: once each check is its clause (`formatR_ok` and the
lemmas after it), the two sides are the same list, row by row. -/
theorem exists_decode_iff_obeyed {r : MapRow} (hr : r ∈ opcodeMap) {w : Word} (hop : opcOf w = r.opc) :
    (∃ i, decode w = .ok i) ↔ r.Obeyed w := by
  simp only [obeyed_iff_in_decode_order, decode_ok_iff, exists_and_left]
  refine and_congr_right fun _ => ?_
  fin_cases hr
  all_goals
    simp [decodeOp, hop, bind_eq_ok_iff, formatR_ok, noRep_ok, zeroField_ok, vreg_ok, exists_vreg_iff, FieldUse.Allows]

/-- Each arm of the decoder gives a command of the arm's opcode. -/
theorem opcodeNumber_of_decode {w : Word} {i : Instr} (h : decode w = .ok i) : Laws.opcodeNumber i = opcOf w := by
  obtain ⟨-, harm⟩ := (decode_ok_iff w i).mp h
  revert harm
  unfold decodeOp
  split
  case h_34 => simp
  all_goals
    rename_i hop
    simp only [hop, bind_eq_ok_iff, Except.ok.injEq, forall_exists_index, and_imp]
    intros
    subst_vars
    rfl

/-- Every command has a row in the map of R115. -/
theorem exists_mapRow (i : Instr) : ∃ r ∈ opcodeMap, r.opc = Laws.opcodeNumber i := by
  cases i <;> (simp only [Laws.opcodeNumber]; decide)

/-- Every command has a row in the table of R116, under its mnemonic. -/
theorem exists_tableRow (i : Instr) : ∃ r ∈ opcodeTable,
    r.pattern = BitVec.ofNat 32 (Laws.opcodeNumber i) ∧ r.mnemonic = (disassemble i).mnemonic := by
  cases i <;> (simp only [Laws.opcodeNumber, disassemble]; decide)

/-- The decoder accepts the words that break no clause of R116. -/
theorem exists_decode_iff_legalWord (w : Word) : (∃ i, decode w = .ok i) ↔ LegalWord w := by
  constructor
  · rintro ⟨i, hi⟩
    obtain ⟨r, hr, hop⟩ := exists_mapRow i
    exact ⟨r, hr, (exists_decode_iff_obeyed hr (hop.trans (opcodeNumber_of_decode hi)).symm).mp ⟨i, hi⟩⟩
  · rintro ⟨r, hr, hobeyed⟩
    exact (exists_decode_iff_obeyed hr hobeyed.1).mpr hobeyed

/-- The row that matches a word has the mnemonic of the command the word decodes to. -/
theorem mnemonic_of_rowMatches {r : Row} (hr : r ∈ opcodeTable) {w : Word} {i : Instr} (hm : rowMatches r w = true)
    (hi : decode w = .ok i) : (disassemble i).mnemonic = r.mnemonic := by
  obtain ⟨q, hq, hpat, hmn⟩ := exists_tableRow i
  have hbyte : w &&& 0xFF = BitVec.ofNat 32 (opcOf w) := (opcOf_eq_iff w (Nat.mod_lt _ (by decide))).mp rfl
  have hsame : q.pattern = r.pattern := by
    rw [hpat, opcodeNumber_of_decode hi, ← hbyte, pattern_of_rowMatches hr hm]
  rw [← hmn, row_eq_of_pattern hq hr hsame]

/-- An illegal word written while no fault is recorded raises `ILLEGAL_COMMAND` (R116, R302). -/
theorem runWord_of_not_legalWord {w : Word} (hw : ¬ LegalWord w) {s : State} (hv : s.faultV = false) :
    runWord w s = .next (s.faulted w (.unlaned .illegalCommand)) := by
  cases hd : decode w with
  | ok i => exact absurd ((exists_decode_iff_legalWord w).mp ⟨i, hd⟩) hw
  | error e => simp [runWord_of_illegal hd, runIllegal, hv]

/-! ### The settled statements -/

/-- Settles O3: each row's clauses are its mask, and the decoder's arm for an opcode tests the clauses of its row. -/
theorem legalWordsMatchTheTable : Obligations.LegalWordsMatchTheTable := by
  intro w
  refine ⟨exists_decode_iff_legalWord w, legalWord_iff_rowMatches w, fun r hr q hq hrw hqw => ?_,
    fun r hr i hm hi => mnemonic_of_rowMatches hr hm hi, fun hw s hv => ⟨_, runWord_of_not_legalWord hw hv, rfl⟩⟩
  exact row_eq_of_pattern hr hq ((pattern_of_rowMatches hr hrw).trans (pattern_of_rowMatches hq hqw).symm)

/-- Settles O4: each line of R127 is assembled, encoded and decoded by evaluation. -/
theorem encodingExamples : Obligations.EncodingExamples := by
  simp only [Obligations.EncodingExamples, List.forall_mem_cons]
  exact ⟨⟨_, rfl, rfl, rfl⟩, ⟨_, rfl, rfl, rfl⟩, ⟨_, rfl, rfl, rfl⟩, ⟨_, rfl, rfl, rfl⟩, ⟨_, rfl, rfl, rfl⟩, ⟨_, rfl, rfl, rfl⟩,
    ⟨_, rfl, rfl, rfl⟩, by simp⟩

end Sys2Proof.Machine
end

section
/-! PROOFS. The value of a Number as digits of base 2^B: the most significant digit, the 2C value as the word below its sign
bit, the value of `enc_SM`, and the ranges that hold every operand (R140, R141, R146, R147). -/

namespace Sys2Proof.Machine

/-! ### Sums of digits -/

/-- n digits below 2^B make a number below 2^(B·n). -/
theorem sumBelow_digits_lt {b n : Nat} {g : Nat → Nat} (h : ∀ k, k < n → g k < 2 ^ b) :
    sumBelow n (fun k => g k * 2 ^ (b * k)) < 2 ^ (b * n) := by
  induction n with
  | zero => simp
  | succ n ih =>
    have hlow := ih fun k hk => h k (by omega)
    calc sumBelow n (fun k => g k * 2 ^ (b * k)) + g n * 2 ^ (b * n)
        < (g n + 1) * 2 ^ (b * n) := by rw [add_mul]; omega
      _ ≤ 2 ^ b * 2 ^ (b * n) := Nat.mul_le_mul_right _ (h n (by omega))
      _ = 2 ^ (b * (n + 1)) := by rw [← pow_add]; congr 1; ring

/-- The digits of an integer below place n sum to the integer modulo 2^(B·n). -/
theorem sumBelow_natDigit (b u n : Nat) :
    sumBelow n (fun k => natDigit b u k * 2 ^ (b * k)) = u % 2 ^ (b * n) := by
  induction n with
  | zero => simp [Nat.mod_one]
  | succ n ih => rw [sumBelow_succ, ih, natDigit, mul_add_one b n, pow_add, Nat.mod_mul, mul_comm (2 ^ (b * n))]

/-! ### Places of a legal format -/

section
variable {f : Format}

theorem Format.Legal.b_le (h : f.Legal) : 31 ≤ f.b ∧ f.b ≤ 32 := by
  obtain ⟨hb, -⟩ := h
  omega

theorem Format.Legal.one_le_l (h : f.Legal) : 1 ≤ f.l := by
  obtain ⟨-, -, ⟨hl, -⟩, -⟩ := h
  exact hl

theorem Format.Legal.t_eq_mul (h : f.Legal) : f.t = f.b * f.l := by
  obtain ⟨-, -, -, ht, -⟩ := h
  rw [ht, mul_comm]

theorem Format.Legal.f_add_i (h : f.Legal) : f.f + f.i = f.t := by
  obtain ⟨-, -, -, -, hf⟩ := h
  exact hf

/-- T bits are the L−1 lower digits and the top digit. -/
theorem Format.Legal.t_eq (h : f.Legal) : f.t = f.b * (f.l - 1) + f.b := by
  rw [h.t_eq_mul, ← Nat.mul_add_one, Nat.sub_add_cancel h.one_le_l]

/-- F bits are L−1 digits and B−I bits more. -/
theorem Format.Legal.f_eq (h : f.Legal) (hi : f.i ≤ f.b) : f.f = f.b * (f.l - 1) + (f.b - f.i) := by
  have := h.t_eq
  have := h.f_add_i
  omega

/-- The sign bit of the word is bit B−1 of the top digit (R141). -/
theorem Format.Legal.signPlace (h : f.Legal) : 2 ^ (f.t - 1) = 2 ^ (f.b * (f.l - 1)) * 2 ^ (f.b - 1) := by
  rw [← pow_add, h.t_eq, Nat.add_sub_assoc (by have := h.b_le; omega)]

theorem Format.Legal.two_pow_t (h : f.Legal) : 2 ^ f.t = 2 * 2 ^ (f.t - 1) := by
  rw [← pow_succ', Nat.sub_add_cancel (by have := h.t_eq; have := h.b_le; omega)]

/-! ### The word, the magnitude and the top digit -/

variable {a : Number}

theorem wordValue_lt (h : f.Legal) (a : Number) : wordValue f a < 2 ^ f.t := by
  rw [h.t_eq_mul]
  exact sumBelow_digits_lt fun k _ => digit_lt f a k

theorem wordValue_div_topPlace (h : f.Legal) (a : Number) :
    wordValue f a / 2 ^ (f.b * (f.l - 1)) = digit f a (f.l - 1) := by
  have hlow : sumBelow (f.l - 1) (fun k => digit f a k * 2 ^ (f.b * k)) < 2 ^ (f.b * (f.l - 1)) :=
    sumBelow_digits_lt fun k _ => digit_lt f a k
  have hsplit : wordValue f a = sumBelow (f.l - 1) (fun k => digit f a k * 2 ^ (f.b * k)) +
      digit f a (f.l - 1) * 2 ^ (f.b * (f.l - 1)) := by
    rw [← sumBelow_succ (f.l - 1) fun k => digit f a k * 2 ^ (f.b * k), Nat.sub_add_cancel h.one_le_l, wordValue]
  rw [hsplit, Nat.add_mul_div_right _ _ (by positivity), Nat.div_eq_of_lt hlow, zero_add]

/-- The cells of a valid SM operand are its digits (R140, R142). -/
theorem mag_eq_wordValue (hv : validSM f a = true) : mag f a = wordValue f a := by
  refine sumBelow_congr fun k hk => ?_
  have hcell := of_decide_eq_true (List.all_eq_true.1 hv k (List.mem_range.2 hk))
  rw [digit, Nat.mod_eq_of_lt hcell]

@[simp] theorem natAbs_xSM (f : Format) (a : Number) : (xSM f a).natAbs = mag f a := by
  unfold xSM
  split <;> simp

/-- The 2C value: the word below the sign bit, less the sign bit's weight when it is set (R141). -/
theorem x2C_eq_sub (h : f.Legal) (a : Number) : x2C f a = (wordValue f a % 2 ^ (f.t - 1) : Nat) -
    if (wordValue f a).testBit (f.t - 1) then 2 ^ (f.t - 1) else 0 := by
  have hlt : wordValue f a / 2 ^ (f.t - 1) < 2 :=
    Nat.div_lt_of_lt_mul (by rw [mul_comm, ← h.two_pow_t]; exact wordValue_lt h a)
  have hdiv := Nat.div_add_mod (wordValue f a) (2 ^ (f.t - 1))
  have hpow : (2 : Int) ^ f.t = 2 * 2 ^ (f.t - 1) := mod_cast h.two_pow_t
  rw [x2C, Nat.testBit_eq_decide_div_mod_eq, Nat.mod_eq_of_lt hlt]
  rcases Nat.le_one_iff_eq_zero_or_eq_one.1 (Nat.lt_succ_iff.1 hlt) with hbit | hbit
  · simp only [hbit, mul_zero, zero_add] at hdiv ⊢
    simp [hdiv]
  · simp only [hbit, mul_one] at hdiv ⊢
    simp only [decide_true, if_true, hpow]
    zify at hdiv ⊢
    omega

theorem x2C_bounds (h : f.Legal) (a : Number) :
    -(2 : Int) ^ (f.t - 1) ≤ x2C f a ∧ x2C f a < 2 ^ (f.t - 1) := by
  have hlow : ((wordValue f a % 2 ^ (f.t - 1) : Nat) : Int) < 2 ^ (f.t - 1) := mod_cast Nat.mod_lt _ (by positivity)
  rw [x2C_eq_sub h]
  split <;> omega

/-- What is left of a 2C word without its sign bit: the value itself, or its distance from −2^(T−1). -/
theorem wordValue_mod_signPlace (h : f.Legal) (a : Number) :
    ((wordValue f a % 2 ^ (f.t - 1) : Nat) : Int) = if 0 ≤ x2C f a then x2C f a else x2C f a + 2 ^ (f.t - 1) := by
  have hlow : ((wordValue f a % 2 ^ (f.t - 1) : Nat) : Int) < 2 ^ (f.t - 1) := mod_cast Nat.mod_lt _ (by positivity)
  have hx := x2C_eq_sub h a
  split at hx <;> split <;> omega

/-! ### The value of `enc_SM` (R147) -/

theorem natDigit_lt_two_pow_64 (h : f.Legal) (u k : Nat) : natDigit f.b u k < 2 ^ 64 :=
  (natDigit_lt f.b u k).trans_le (Nat.pow_le_pow_right two_pos (by have := h.b_le; omega))

theorem cell_encSM (h : f.Legal) (x : Int) {k : Nat} (hk : k < f.l) :
    ((encSM f x).cell k).toNat = natDigit f.b x.natAbs k := by
  have hcell : (encSM f x).cell k = BitVec.ofNat 64 (natDigit f.b x.natAbs k) := by simp [Number.cell, encSM, hk]
  rw [hcell, BitVec.toNat_ofNat, Nat.mod_eq_of_lt (natDigit_lt_two_pow_64 h _ _)]

theorem validSM_encSM (h : f.Legal) (x : Int) : validSM f (encSM f x) = true := by
  refine List.all_eq_true.2 fun k hk => decide_eq_true ?_
  rw [cell_encSM h x (List.mem_range.1 hk)]
  exact natDigit_lt f.b _ k

theorem mag_encSM (h : f.Legal) {x : Int} (hx : inrangeSM f x = true) : mag f (encSM f x) = x.natAbs := by
  obtain ⟨hlo, hhi⟩ := of_decide_eq_true hx
  have habs : x.natAbs < 2 ^ f.t := by zify; exact abs_lt.2 ⟨hlo, hhi⟩
  have hdigits : mag f (encSM f x) = sumBelow f.l fun k => natDigit f.b x.natAbs k * 2 ^ (f.b * k) :=
    sumBelow_congr fun k hk => by rw [cell_encSM h x hk]
  rw [hdigits, sumBelow_natDigit, ← h.t_eq_mul, Nat.mod_eq_of_lt habs]

theorem xSM_encSM (h : f.Legal) {x : Int} (hx : inrangeSM f x = true) : xSM f (encSM f x) = x := by
  rw [xSM, mag_encSM h hx]
  by_cases h0 : 0 ≤ x
  · simp [encSM, h0]
  · have hne : x ≠ 0 := by omega
    simp [encSM, h0, hne, abs_of_neg (not_le.1 h0)]

end

/-! ### The settled statement -/

/-- Settles O32: a valid SM operand's magnitude is its word, which is below 2^T; the 2C value from `x2C_bounds`. -/
theorem operandsInRange : Obligations.OperandsInRange := by
  refine fun f h => ⟨fun x => decide_eq_true_iff, fun x => decide_eq_true_iff, fun a hv => decide_eq_true ?_,
    fun a => decide_eq_true (x2C_bounds h a)⟩
  have hmag : (xSM f a).natAbs < 2 ^ f.t := by
    rw [natAbs_xSM, mag_eq_wordValue hv]
    exact wordValue_lt h a
  zify at hmag
  exact abs_lt.1 hmag

end Sys2Proof.Machine
end

section
/-! PROOFS. Shift-and-trim as limbs (R154): a quotient of a digit list by a power of 2^B drops digits, so a shift by F leaves
the parts of two neighbouring digits in one place of the result. -/

namespace Sys2Proof.Machine

theorem weightedSum_drop (b : Nat) (r : List Nat) (n : Nat) :
    weightedSum b (r.drop n) = r.getD n 0 + 2 ^ b * weightedSum b (r.drop (n + 1)) := by
  by_cases hn : n < r.length
  · rw [List.drop_eq_getElem_cons hn, weightedSum_cons, List.getD_eq_getElem _ _ hn]
  · rw [not_lt] at hn
    rw [List.drop_eq_nil_of_le hn, List.drop_eq_nil_of_le (by omega), List.getD_eq_default _ _ hn]
    simp

section
variable {b : Nat} {r : List Nat} (hr : ∀ d ∈ r, d < 2 ^ b)
include hr

theorem getD_lt_of_digits (n : Nat) : r.getD n 0 < 2 ^ b := by
  by_cases hn : n < r.length
  · rw [List.getD_eq_getElem _ _ hn]
    exact hr _ (List.getElem_mem hn)
  · rw [List.getD_eq_default _ _ (not_lt.1 hn)]
    positivity

theorem weightedSum_div_place (n : Nat) : weightedSum b r / 2 ^ (b * n) = weightedSum b (r.drop n) := by
  induction n with
  | zero => simp
  | succ n ih =>
    rw [mul_add_one b n, pow_add, ← Nat.div_div_eq_div_mul, ih, weightedSum_drop,
      Nat.add_mul_div_left _ _ (by positivity), Nat.div_eq_of_lt (getD_lt_of_digits hr n), zero_add]

/-- A quotient that ends inside digit n: the high part of that digit, below the digits after it. -/
theorem weightedSum_div_inside (n : Nat) {i : Nat} (hi : i ≤ b) : weightedSum b r / 2 ^ (b * n + (b - i)) =
    r.getD n 0 / 2 ^ (b - i) + 2 ^ i * weightedSum b (r.drop (n + 1)) := by
  have hb : 2 ^ b = 2 ^ (b - i) * 2 ^ i := by rw [← pow_add, Nat.sub_add_cancel hi]
  rw [pow_add, ← Nat.div_div_eq_div_mul, weightedSum_div_place hr, weightedSum_drop, hb, mul_assoc,
    Nat.add_mul_div_left _ _ (by positivity)]

end

section
variable {f : Format} {r : List Nat} (h : f.Legal) (hr : ∀ d ∈ r, d < 2 ^ f.b) (hi : f.i ≤ f.b)
include h hr hi

theorem natDigit_shiftAndTrim (k : Nat) : natDigit f.b (shiftAndTrim f r) k =
    (r.getD (f.l + k) 0 * 2 ^ f.i + r.getD (f.l + k - 1) 0 / 2 ^ (f.b - f.i)) % 2 ^ f.b := by
  have hl := h.one_le_l
  have hplace : f.f + f.b * k = f.b * (f.l + k - 1) + (f.b - f.i) := by
    rw [h.f_eq hi, Nat.sub_add_comm hl, mul_add]
    omega
  have hnext : f.l + k - 1 + 1 = f.l + k := by omega
  rw [natDigit, shiftAndTrim, Nat.div_div_eq_div_mul, ← pow_add, hplace, weightedSum_div_inside hr _ hi, hnext,
    weightedSum_drop, mul_add, mul_left_comm, ← add_assoc, Nat.add_mul_mod_self_left, add_comm, mul_comm]

theorem weightedSum_div_trimmed (hlen : r.length = 2 * f.l) :
    weightedSum f.b r / 2 ^ (f.t + f.f) = r.getD (2 * f.l - 1) 0 / 2 ^ (f.b - f.i) := by
  have hl := h.one_le_l
  have hplace : f.t + f.f = f.b * (2 * f.l - 1) + (f.b - f.i) := by
    rw [h.f_eq hi, h.t_eq_mul, show 2 * f.l - 1 = f.l + (f.l - 1) by omega, mul_add]
    ring
  rw [hplace, weightedSum_div_inside hr _ hi, List.drop_eq_nil_of_le (by omega)]
  simp

end

/-- Settles O34: both quotients end inside a digit (`weightedSum_div_inside`); with I = B that digit is whole. -/
theorem shiftAndTrimAsLimbs : Obligations.ShiftAndTrimAsLimbs := by
  intro f r h hlen hr
  refine ⟨fun hi => ⟨fun k _ => natDigit_shiftAndTrim h hr hi k, weightedSum_div_trimmed h hr hi hlen⟩,
    fun hi k _ => ?_, fun hi => ?_⟩
  · rw [natDigit_shiftAndTrim h hr hi.le, hi, Nat.sub_self, pow_zero, Nat.div_one, Nat.mul_add_mod_self_right,
      Nat.mod_eq_of_lt (getD_lt_of_digits hr _)]
  · obtain ⟨hb, ⟨-, hi32⟩, -⟩ := h
    omega

end Sys2Proof.Machine
end

section
/-! PROOFS. Exactness of the compare of the most significant limb (R162). The compare reads the top digit, which is the
quotient of the word (without its sign bit in 2C) by the top place; on a value at least 0 it is therefore a compare with
`THRESH_MSL` at the top place. -/

namespace Sys2Proof.Machine

section
variable {f : Format} {a : Number} (h : f.Legal)
include h

/-! ### What the compare reads (R157) -/

theorem geThreshold_sm_iff (msl : Nat) (hv : validSM f a = true) :
    geThreshold f msl .sm a = true ↔ msl ≤ (xSM f a).natAbs / 2 ^ (f.b * (f.l - 1)) := by
  rw [geThreshold, decide_eq_true_iff, natAbs_xSM, mag_eq_wordValue hv, wordValue_div_topPlace h]

theorem geThreshold_tc_iff (msl : Nat) (a : Number) : geThreshold f msl .tc a = true ↔
    msl ≤ wordValue f a % 2 ^ (f.t - 1) / 2 ^ (f.b * (f.l - 1)) := by
  rw [geThreshold, decide_eq_true_iff, h.signPlace, Nat.mod_mul_right_div_self, wordValue_div_topPlace h]

theorem geThreshold_tc_iff_of_neg (msl : Nat) (hx : x2C f a < 0) : geThreshold f msl .tc a = true ↔
    msl ≤ (x2C f a + 2 ^ (f.t - 1)).toNat / 2 ^ (f.b * (f.l - 1)) := by
  have hword := wordValue_mod_signPlace h a
  rw [if_neg (by omega)] at hword
  rw [geThreshold_tc_iff h, ← hword, Int.toNat_natCast]

/-- On a value at least 0 the compare is one with the threshold limb at the top place. -/
theorem geThreshold_iff_of_nonneg (msl : Nat) (rep : Rep) (hv : validRep f rep a = true) (hx : 0 ≤ xRep f rep a) :
    geThreshold f msl rep a = true ↔ ((msl * 2 ^ (f.b * (f.l - 1)) : Nat) : Int) ≤ xRep f rep a := by
  cases rep with
  | sm =>
    change 0 ≤ xSM f a at hx
    rw [geThreshold_sm_iff h msl hv, Nat.le_div_iff_mul_le (by positivity), ← Int.ofNat_le, Int.natAbs_of_nonneg hx, xRep]
  | tc =>
    change 0 ≤ x2C f a at hx
    have hword := wordValue_mod_signPlace h a
    rw [if_pos hx] at hword
    rw [geThreshold_tc_iff h, Nat.le_div_iff_mul_le (by positivity), ← Int.ofNat_le, hword, xRep]

/-! ### The threshold limb (R161) -/

theorem topPlace_dvd_threshold (hi : f.i ≤ f.b) (t : Nat) : 2 ^ (f.b * (f.l - 1)) ∣ t * 2 ^ f.f :=
  (pow_dvd_pow 2 (by rw [h.f_eq hi]; omega)).mul_left t

/-- I > B leaves the binary point one bit above the top place. -/
theorem Format.Legal.topPlace_eq_succ (hi : f.b < f.i) : f.b * (f.l - 1) = f.f + 1 := by
  have := h.t_eq
  obtain ⟨hb, ⟨-, hi32⟩, -, -, hf⟩ := h
  omega

theorem thresholdMsl_of_lt (hi : f.b < f.i) (t : Nat) : thresholdMsl f.b f.l f.f t = t / 2 := by
  rw [thresholdMsl, h.topPlace_eq_succ hi, pow_succ', Nat.mul_div_mul_right _ _ (by positivity)]

theorem le_thresholdMsl {t : Nat} (ht : 2 ^ (f.i - 1) ≤ t) : 2 ^ (f.b - 1) ≤ thresholdMsl f.b f.l f.f t := by
  have hsign : f.t - 1 = f.i - 1 + f.f := by
    obtain ⟨-, ⟨hi, -⟩, -, -, hf⟩ := h
    omega
  rw [thresholdMsl, Nat.le_div_iff_mul_le (by positivity), mul_comm, ← h.signPlace, hsign, pow_add]
  exact Nat.mul_le_mul_right _ ht

/-! ### Exactness -/

theorem geThreshold_iff_threshold_le (hi : f.i ≤ f.b) (t : Nat) (rep : Rep) (hv : validRep f rep a = true)
    (hx : 0 ≤ xRep f rep a) : geThreshold f (thresholdMsl f.b f.l f.f t) rep a = true ↔
      ((t * 2 ^ f.f : Nat) : Int) ≤ xRep f rep a := by
  rw [geThreshold_iff_of_nonneg h _ rep hv hx, thresholdMsl, Nat.div_mul_cancel (topPlace_dvd_threshold h hi t)]

theorem geThreshold_iff_even_threshold_le (hi : f.b < f.i) (t : Nat) (rep : Rep) (hv : validRep f rep a = true)
    (hx : 0 ≤ xRep f rep a) : geThreshold f (thresholdMsl f.b f.l f.f t) rep a = true ↔
      ((2 * (t / 2) * 2 ^ f.f : Nat) : Int) ≤ xRep f rep a := by
  rw [geThreshold_iff_of_nonneg h _ rep hv hx, thresholdMsl_of_lt h hi, h.topPlace_eq_succ hi, pow_succ', ← mul_assoc,
    mul_comm (t / 2)]

/-- An odd threshold is met by the even one below it, which is smaller. -/
theorem exists_below_odd_threshold (hi : f.b < f.i) {t : Nat} (ht : t < 2 ^ f.i) (hodd : t % 2 = 1) :
    ∃ a, validSM f a = true ∧ 0 ≤ xSM f a ∧ geThreshold f (thresholdMsl f.b f.l f.f t) .sm a = true ∧
      xSM f a < ((t * 2 ^ f.f : Nat) : Int) := by
  have hbelow : 2 * (t / 2) * 2 ^ f.f < t * 2 ^ f.f := Nat.mul_lt_mul_of_pos_right (by omega) (by positivity)
  have hmax : t * 2 ^ f.f < 2 ^ f.t := by
    rw [← h.f_add_i, add_comm, pow_add]
    exact Nat.mul_lt_mul_of_pos_right ht (by positivity)
  have hrange : inrangeSM f ((2 * (t / 2) * 2 ^ f.f : Nat) : Int) = true := by
    refine decide_eq_true ⟨?_, mod_cast hbelow.trans hmax⟩
    exact lt_of_lt_of_le (neg_lt_zero.2 (by positivity)) (Int.natCast_nonneg _)
  have hvalue := xSM_encSM h hrange
  have hvalid := validSM_encSM h ((2 * (t / 2) * 2 ^ f.f : Nat) : Int)
  have hnonneg : 0 ≤ xSM f (encSM f ((2 * (t / 2) * 2 ^ f.f : Nat) : Int)) := hvalue ▸ Int.natCast_nonneg _
  refine ⟨_, hvalid, hnonneg, ?_, hvalue.trans_lt (mod_cast hbelow)⟩
  exact (geThreshold_iff_even_threshold_le h hi t .sm hvalid hnonneg).2 hvalue.ge

omit h in
/-- The masked top digit has B−1 bits. -/
theorem geThreshold_tc_eq_false {msl : Nat} (hmsl : 2 ^ (f.b - 1) ≤ msl) (a : Number) : geThreshold f msl .tc a = false :=
  decide_eq_false (not_le.2 ((Nat.mod_lt _ (by positivity)).trans_le hmsl))

end

/-- Settles O35: both cases of I against B from `geThreshold_iff_of_nonneg`, negative operands from what the compare
reads. -/
theorem thresholdExactness : Obligations.ThresholdExactness := by
  intro f t h ht
  exact ⟨fun hi => ⟨topPlace_dvd_threshold h hi t, fun rep _ => geThreshold_iff_threshold_le h hi t rep⟩,
    fun hi => ⟨thresholdMsl_of_lt h hi t, fun rep _ => geThreshold_iff_even_threshold_le h hi t rep,
      exists_below_odd_threshold h hi ht⟩,
    fun _ hv _ => geThreshold_sm_iff h _ hv, fun _ _ hx => geThreshold_tc_iff_of_neg h _ hx,
    fun hbig => ⟨le_thresholdMsl h hbig, geThreshold_tc_eq_false (le_thresholdMsl h hbig)⟩⟩

end Sys2Proof.Machine
end

section
/-! PROOFS. `MUL` and `ADD` are commutative (R215). Exchanging the operands of `MUL` permutes the partial products, and bins are
sums, which do not depend on the order. Settled here: O45. -/

namespace Sys2Proof.Machine

/-! ### Bins do not depend on the order (R150) -/

theorem addToBin_right_comm (bins : List Nat) (k v j w : Nat) :
    addToBin (addToBin bins k v) j w = addToBin (addToBin bins j w) k v := by
  refine List.ext_getElem (by simp [addToBin]) fun n _ _ => ?_
  simp only [addToBin, List.getElem_modify]
  split_ifs
  · exact Nat.add_right_comm _ v w
  all_goals rfl

theorem accumulate_right_comm (b : Nat) (bins : List Nat) (k p j q : Nat) :
    accumulate b (accumulate b bins k p) j q = accumulate b (accumulate b bins j q) k p := by
  simp only [accumulate]
  rw [addToBin_right_comm _ (k + 1) _ j, addToBin_right_comm _ (k + 1) _ (j + 1), addToBin_right_comm _ k _ j,
    addToBin_right_comm _ k _ (j + 1)]

/-! ### The multiset of partial products is the same (R215) -/

/-- The partial products of `bins_mul(A, C)` (R150), each with its position, in the order they are accumulated. -/
def partialProducts (f : Format) (a c : Nat) : List (Nat × Nat) :=
  (List.range f.l).flatMap fun j => (List.range f.l).map fun i => (j + i, natDigit f.b a j * natDigit f.b c i)

theorem binsMul_eq_foldl_partialProducts (f : Format) (a c : Nat) :
    binsMul f a c =
      (partialProducts f a c).foldl (fun bins p => accumulate f.b bins p.1 p.2) (List.replicate (2 * f.l) 0) := by
  simp only [binsMul, partialProducts, List.foldl_flatMap, List.foldl_map]

/-- The same pair of digits, met in the other order, is the same partial product at the same position. -/
theorem partialProducts_perm (f : Format) (a c : Nat) : (partialProducts f a c).Perm (partialProducts f c a) := by
  have hswap := Multiset.bind_map_comm (List.range f.l : Multiset Nat) (List.range f.l : Multiset Nat)
    (f := fun j i => (j + i, natDigit f.b a j * natDigit f.b c i))
  simp only [Multiset.map_coe, Multiset.coe_bind, Multiset.coe_eq_coe] at hswap
  simpa only [partialProducts, add_comm, mul_comm] using hswap

theorem binsMul_comm (f : Format) (a c : Nat) : binsMul f a c = binsMul f c a := by
  rw [binsMul_eq_foldl_partialProducts, binsMul_eq_foldl_partialProducts]
  exact (partialProducts_perm f a c).foldl_eq' (fun p _ q _ bins => accumulate_right_comm f.b bins p.1 p.2 q.1 q.2) _

/-! ### The operations (R201, R204) -/

theorem signedProduct_comm (xa xb : Int) (m : Nat) : signedProduct xa xb m = signedProduct xb xa m := by
  simp only [signedProduct, eq_comm (a := decide (0 < xa))]

/-- The order in which two operands are validated does not show: either way the one fault is `OPERAND_INVALID`. -/
theorem operand_bind_comm {α : Type} (f : Format) (rep : Rep) (a b : Number) (g : Int → Int → Except Cause α) :
    (do let xa ← operand f rep a; let xb ← operand f rep b; g xa xb) =
      (do let xb ← operand f rep b; let xa ← operand f rep a; g xa xb) := by
  unfold operand
  cases validRep f rep a <;> cases validRep f rep b <;> rfl

theorem opMul_comm (f : Format) (rep : Rep) (a b : Number) : opMul f rep a b = opMul f rep b a := by
  simp only [opMul]
  rw [operand_bind_comm]
  simp only [or_comm, binsMul_comm f, signedProduct_comm]

theorem opAdd_comm (f : Format) (rep : Rep) (a b : Number) : opAdd f rep a b = opAdd f rep b a := by
  simp only [opAdd]
  rw [operand_bind_comm]
  simp only [add_comm]

/-! ### The commands -/

/-- Command execution keeps of the command word only what a fault records of it (R310, R311). -/
theorem runCommand_next_of_rule_eq {nc : Bool} (w w' : Word) {rule rule' : State → Except Raised State} {s : State}
    (h : rule s.accept = rule' s.accept) :
    ∃ t u, runCommand nc w rule s = .next t ∧ runCommand nc w' rule' s = .next u ∧
      u = { t with faultCmd := u.faultCmd } := by
  unfold runCommand
  rw [h]
  split_ifs
  · exact ⟨_, _, rfl, rfl, rfl⟩
  · exact ⟨_, _, rfl, rfl, rfl⟩
  · cases rule' s.accept with
    | error r => exact ⟨_, _, rfl, rfl, rfl⟩
    | ok t => exact ⟨_, _, rfl, rfl, rfl⟩

/-- Settles O45: exchanged operands leave the rule of the command as it was. -/
theorem commutativity : Obligations.Commutativity := by
  intro s rep sd sa sb
  have hmul : commandRule (.mul rep sd sa sb) s.accept = commandRule (.mul rep sd sb sa) s.accept := by
    rw [commandRule, commandRule, opMul_comm]
  have hadd : commandRule (.add rep sd sa sb) s.accept = commandRule (.add rep sd sb sa) s.accept := by
    rw [commandRule, commandRule, opAdd_comm]
  simp only [exec_eq_runCommand]
  exact ⟨runCommand_next_of_rule_eq _ _ hmul, runCommand_next_of_rule_eq _ _ hadd⟩

end Sys2Proof.Machine
end

section
/-! PROOFS. Masking of the vector commands (R240, R241, R254): a command other than `VINS` and `CONSTRUCT` writes lanes by the
common vector procedure or not at all, and that procedure writes active lanes only. Settled here: O26. -/

namespace Sys2Proof.Machine

/-! ### The vector procedure writes active lanes only -/

@[simp] theorem State.countResult_vregs (s : State) (r : Result) : (s.countResult r).vregs = s.vregs := by
  rw [State.countResult_eq]

/-- Lanes are read from the containers. -/
theorem State.laneAt_eq_of_vregs_eq {s t : State} (h : t.vregs = s.vregs) (v : VReg) (n : Nat) :
    t.laneAt v n = s.laneAt v n := by
  rw [State.laneAt, State.laneAt, State.vregAt, State.vregAt, h]

/-- Counting a lane's result and marking it done write no container (R241, R250). -/
theorem State.commitLane_vregs (vd : VReg) (s : State) (nr : Nat × Result) :
    (State.commitLane vd s nr).vregs = (s.writeLane vd nr.1 nr.2.value).vregs := by
  unfold State.commitLane
  split <;> exact State.countResult_vregs _ nr.2

theorem State.laneAt_writeLane_of_lane_ne (s : State) (v q : VReg) {n m : Nat} (h : m ≠ n) (a : Number) :
    (s.writeLane v n a).laneAt q m = s.laneAt q m := by
  by_cases hq : q = v
  · rw [hq, State.laneAt_writeLane, if_neg fun hm => h hm.1]
  · exact State.laneAt_writeLane_of_ne s hq n m a

theorem State.laneAt_commitLane_of_lane_ne (vd q : VReg) (s : State) (nr : Nat × Result) {m : Nat} (h : m ≠ nr.1) :
    (State.commitLane vd s nr).laneAt q m = s.laneAt q m := by
  rw [State.laneAt_eq_of_vregs_eq (State.commitLane_vregs vd s nr), State.laneAt_writeLane_of_lane_ne s vd q h]

/-- Committing a list of lane results leaves a lane that is not in the list. -/
theorem State.laneAt_foldl_commitLane_of_notMem (vd q : VReg) {m : Nat} (rs : List (Nat × Result)) (s : State)
    (h : m ∉ rs.map Prod.fst) : (rs.foldl (State.commitLane vd) s).laneAt q m = s.laneAt q m := by
  induction rs generalizing s with
  | nil => rfl
  | cons nr rs ih =>
    obtain ⟨hne, hrest⟩ : m ≠ nr.1 ∧ m ∉ rs.map Prod.fst := by simpa using h
    rw [List.foldl_cons, ih _ hrest, State.laneAt_commitLane_of_lane_ne vd q s nr hne]

/-- The vector procedure leaves every lane that is not active (R241). -/
theorem laneAt_of_vectorResult {vd : VReg} {op : Nat → Except Cause Result} {s t : State}
    (h : vectorResult vd op s = .ok t) {n : Nat} (hn : s.isActive n = false) (v : VReg) :
    t.laneAt v n = s.laneAt v n := by
  obtain ⟨rs, hrs, rfl⟩ := vectorResult_ok h
  obtain ⟨hlanes, -⟩ := runLanes_ok hrs
  have hout : n ∉ rs.map Prod.fst := by
    rw [hlanes, State.mem_activeLanes, hn]
    exact Bool.false_ne_true
  exact State.laneAt_foldl_commitLane_of_notMem vd v rs s hout

/-! ### Which rules write lanes -/

theorem vregs_of_scalarResult {sd : SReg} {x : Except Cause Result} {s t : State} (h : scalarResult sd x s = .ok t) :
    t.vregs = s.vregs := by
  obtain ⟨r, -, rfl⟩ := scalarResult_ok h
  exact State.countResult_vregs _ r

theorem vregs_of_loadScaled {rep : Rep} {sd : SReg} {x : Int} {c : Cause} {s t : State}
    (h : loadScaled rep sd x c s = .ok t) : t.vregs = s.vregs := by
  obtain ⟨-, rfl⟩ := loadScaled_ok h
  rfl

theorem State.foldl_updateLane_vregs (rep : Rep) (va : VReg) (ns : List Nat) (s : State) :
    (ns.foldl (State.updateLane rep va) s).vregs = s.vregs := by
  induction ns generalizing s with
  | nil => rfl
  | cons n ns ih => exact ih _

/-- Everything a completed rule can do to the containers, `CONSTRUCT` and `VINS` apart: nothing, or what the common vector
procedure does (R241). -/
theorem commandRule_vregs {i : Instr} {s t : State} (hc : i ≠ .construct) (hv : ∀ vd sa lane, i ≠ .vins vd sa lane)
    (h : commandRule i s = .ok t) : t.vregs = s.vregs ∨ ∃ vd op, vectorResult vd op s = .ok t := by
  cases i with
  | construct => exact absurd rfl hc
  | vins vd sa lane => exact absurd rfl (hv vd sa lane)
  | vmov | vldz | vbcast | vadd | vsub | vmul | vsqr | vmuli => exact .inr ⟨_, _, h⟩
  | nop | orst | mov | ldz | ldmax | limblen | tzlimb | chk => cases h; exact .inl rfl
  | ldi | split => exact .inl (vregs_of_loadScaled h)
  | totc => exact .inl (vregs_of_loadScaled (ruleTotc_ok h))
  | add | sub | mul | sqr | muli => exact .inl (vregs_of_scalarResult h)
  | cmpt => rw [ruleCmpt_ok h]; exact .inl rfl
  | cmpm => rw [ruleCmpm_ok h]; exact .inl rfl
  | fromtc => rw [ruleFromtc_ok h]; exact .inl rfl
  | join => rw [ruleJoin_ok h]; exact .inl rfl
  | vext => rw [ruleVext_ok h]; exact .inl rfl
  | vcmpt => rw [ruleVcmpt_ok h]; exact .inl rfl
  | upddone rep va => rw [ruleUpddone_ok h]; exact .inl (State.foldl_updateLane_vregs rep va _ s)

theorem laneAt_of_commandRule {i : Instr} {s t : State} (hc : i ≠ .construct)
    (hv : ∀ vd sa lane, i ≠ .vins vd sa lane) (h : commandRule i s = .ok t) {n : Nat} (hn : s.isActive n = false)
    (v : VReg) : t.laneAt v n = s.laneAt v n := by
  rcases commandRule_vregs hc hv h with hkeep | ⟨vd, op, hvec⟩
  · exact State.laneAt_eq_of_vregs_eq hkeep v n
  · exact laneAt_of_vectorResult hvec hn v

/-! ### The settled statement -/

/-- A lane is inactive when it is done, out of play or beyond `VCOUNT` (R240). -/
theorem State.isActive_eq_false_iff (s : State) (n : Nat) :
    s.isActive n = false ↔ s.doneAt n = true ∨ s.inplayAt (n / 4) = false ∨ s.vcount.toNat ≤ n := by
  rw [← Bool.not_eq_true, State.isActive_iff]
  grind

/-- Settles O26: dropping and faulting write no lane, and a rule that completes writes active lanes only. -/
theorem retiredLanesFrozen : Obligations.RetiredLanesFrozen := by
  intro i s t hc hv h n hn v
  have hinactive : s.accept.isActive n = false := (State.isActive_eq_false_iff s n).2 hn
  rcases exec_cases h with ⟨-, rfl⟩ | ⟨-, x, rfl⟩ | ⟨-, hr⟩
  · rfl
  · rfl
  · exact laneAt_of_commandRule hc hv hr hinactive v

end Sys2Proof.Machine
end

section
/-! PROOFS. The run of the lanes (R280, R281, R283): what a command may do to `VCOUNT`, `INPLAY`, `DONE` and `COUNT`, said once as
a relation between the states before and after it, and the in-play invariant that follows. Settled here: O23, O24. -/

namespace Sys2Proof.Machine

/-! ### Lanes that stay done (R281) -/

/-- From s to t no group enters or leaves play, a done lane stays done, and its count stays. -/
structure KeepsDone (s t : State) : Prop where
  params : t.params = s.params
  vcount : t.vcount = s.vcount
  inplay : t.inplay = s.inplay
  done : ∀ n, s.doneAt n = true → t.doneAt n = true
  count : ∀ n, s.doneAt n = true → t.countAt n = s.countAt n

theorem KeepsDone.refl (s : State) : KeepsDone s s := ⟨rfl, rfl, rfl, fun _ hn => hn, fun _ _ => rfl⟩

theorem KeepsDone.trans {s t u : State} (h : KeepsDone s t) (h' : KeepsDone t u) : KeepsDone s u where
  params := h'.params.trans h.params
  vcount := h'.vcount.trans h.vcount
  inplay := h'.inplay.trans h.inplay
  done n hn := h'.done n (h.done n hn)
  count n hn := (h'.count n (h.done n hn)).trans (h.count n hn)

/-- What writes none of these registers keeps them. -/
theorem KeepsDone.of_eq {s t : State} (hp : t.params = s.params) (hv : t.vcount = s.vcount) (hi : t.inplay = s.inplay)
    (hd : t.done = s.done) (hc : t.count = s.count) : KeepsDone s t where
  params := hp
  vcount := hv
  inplay := hi
  done n hn := by rwa [State.doneAt, hd]
  count n _ := by rw [State.countAt, State.countAt, hc]

theorem keepsDone_writeSreg (s : State) (r : SReg) (a : Number) : KeepsDone s (s.writeSreg r a) :=
  .of_eq rfl rfl rfl rfl rfl

theorem keepsDone_countResult (s : State) (r : Result) : KeepsDone s (s.countResult r) := by
  rw [State.countResult_eq]
  exact .of_eq rfl rfl rfl rfl rfl

theorem keepsDone_markDone (s : State) (n : Nat) : KeepsDone s (s.markDone n) where
  params := rfl
  vcount := rfl
  inplay := rfl
  done m hm := by rw [State.doneAt_markDone, hm, Bool.or_true]
  count _ _ := rfl

theorem keepsDone_commitLane (vd : VReg) (s : State) (nr : Nat × Result) : KeepsDone s (State.commitLane vd s nr) := by
  have hwrite : KeepsDone s (s.writeLane vd nr.1 nr.2.value) := .of_eq rfl rfl rfl rfl rfl
  have hcount := hwrite.trans (keepsDone_countResult _ nr.2)
  unfold State.commitLane
  split
  · exact hcount.trans (keepsDone_markDone _ nr.1)
  · exact hcount

theorem keepsDone_of_scalarResult {sd : SReg} {x : Except Cause Result} {s t : State}
    (h : scalarResult sd x s = .ok t) : KeepsDone s t := by
  obtain ⟨r, -, rfl⟩ := scalarResult_ok h
  exact (keepsDone_writeSreg s sd r.value).trans (keepsDone_countResult _ r)

theorem keepsDone_of_loadScaled {rep : Rep} {sd : SReg} {x : Int} {c : Cause} {s t : State}
    (h : loadScaled rep sd x c s = .ok t) : KeepsDone s t := by
  obtain ⟨-, rfl⟩ := loadScaled_ok h
  exact keepsDone_writeSreg s sd _

theorem keepsDone_of_vectorResult {vd : VReg} {op : Nat → Except Cause Result} {s t : State}
    (h : vectorResult vd op s = .ok t) : KeepsDone s t := by
  obtain ⟨rs, -, rfl⟩ := vectorResult_ok h
  exact List.foldlRecOn rs _ (KeepsDone.refl s) fun u hu nr _ => hu.trans (keepsDone_commitLane vd u nr)

/-- Everything a completed rule can do to the lane flags and counts, `CONSTRUCT`, `ORST` and `UPDDONE` apart. -/
theorem commandRule_keepsDone {i : Instr} {s t : State} (hc : i ≠ .construct) (ho : i ≠ .orst)
    (hu : ∀ rep va, i ≠ .upddone rep va) (h : commandRule i s = .ok t) : KeepsDone s t := by
  cases i with
  | construct => exact absurd rfl hc
  | orst => exact absurd rfl ho
  | upddone rep va => exact absurd rfl (hu rep va)
  | nop => cases h; exact .refl s
  | mov | ldz | ldmax => cases h; exact keepsDone_writeSreg s _ _
  | ldi | split => exact keepsDone_of_loadScaled h
  | totc => exact keepsDone_of_loadScaled (ruleTotc_ok h)
  | add | sub | mul | sqr | muli => exact keepsDone_of_scalarResult h
  | fromtc => rw [ruleFromtc_ok h]; exact keepsDone_writeSreg s _ _
  | vext => rw [ruleVext_ok h]; exact keepsDone_writeSreg s _ _
  | cmpt => rw [ruleCmpt_ok h]; exact .of_eq rfl rfl rfl rfl rfl
  | cmpm => rw [ruleCmpm_ok h]; exact .of_eq rfl rfl rfl rfl rfl
  | join => rw [ruleJoin_ok h]; exact .of_eq rfl rfl rfl rfl rfl
  | limblen | tzlimb | chk => cases h; exact .of_eq rfl rfl rfl rfl rfl
  | vmov | vldz | vbcast | vadd | vsub | vmul | vsqr | vmuli => exact keepsDone_of_vectorResult h
  | vins => rw [ruleVins_ok h]; exact .of_eq rfl rfl rfl rfl rfl
  | vcmpt => rw [ruleVcmpt_ok h]; exact .of_eq rfl rfl rfl rfl rfl

/-! ### UPDDONE (R283) -/

theorem State.doneAt_updateLane (rep : Rep) (va : VReg) (s : State) (n : Nat) {m : Nat} (hm : s.doneAt m = true) :
    (State.updateLane rep va s n).doneAt m = true := by
  have hmark := (keepsDone_markDone s n).done m hm
  unfold State.updateLane State.doneAt
  dsimp only
  split
  · exact hmark
  · exact hm

theorem State.countAt_updateLane_of_ne (rep : Rep) (va : VReg) (s : State) {n m : Nat} (h : m ≠ n) :
    (State.updateLane rep va s n).countAt m = s.countAt m := by
  simp only [State.countAt, State.updateLane_count, List.getD_eq_getElem?_getD, List.getElem?_set_ne h.symm]

/-- The update of a lane that was not done leaves the done ones. -/
theorem KeepsDone.updateLane {s u : State} (h : KeepsDone s u) (rep : Rep) (va : VReg) {n : Nat}
    (hn : s.doneAt n = false) : KeepsDone s (State.updateLane rep va u n) where
  params := h.params
  vcount := h.vcount
  inplay := h.inplay
  done m hm := State.doneAt_updateLane rep va u n (h.done m hm)
  count m hm := by
    have hne : m ≠ n := by
      rintro rfl
      rw [hn] at hm
      exact Bool.false_ne_true hm
    rw [State.countAt_updateLane_of_ne rep va u hne, h.count m hm]

/-- A completed `UPDDONE` updates lanes that were active, so not done, and then drops the retired groups. -/
theorem ruleUpddone_keepsDone {rep : Rep} {va : VReg} {s t : State} (h : ruleUpddone rep va s = .ok t) :
    ∃ u, KeepsDone s u ∧ t = u.dropRetiredGroups := by
  refine ⟨_, ?_, ruleUpddone_ok h⟩
  refine List.foldlRecOn s.activeLanes _ (KeepsDone.refl s) fun u hu n hn => hu.updateLane rep va ?_
  obtain ⟨-, -, hdone⟩ := (State.isActive_iff s n).1 ((State.mem_activeLanes s n).1 hn)
  exact hdone

/-- A group stays in play when one of its lanes is not done. -/
theorem State.inplayAt_dropRetiredGroups (s : State) (g : Nat) :
    s.dropRetiredGroups.inplayAt g = (s.inplayAt g && !s.groupDone g) := by
  simp only [State.inplayAt, State.dropRetiredGroups_inplay, List.getD_eq_getElem?_getD, List.getElem?_mapIdx]
  cases s.inplay[g]? <;> rfl

theorem State.groupDone_iff (s : State) (g : Nat) : s.groupDone g = true ↔ ∀ j, j < 4 → s.doneAt (4 * g + j) = true := by
  simp only [State.groupDone, Bool.and_eq_true, and_assoc]
  constructor
  · rintro ⟨h0, h1, h2, h3⟩ j hj
    interval_cases j <;> assumption
  · intro h
    exact ⟨h 0 (by omega), h 1 (by omega), h 2 (by omega), h 3 (by omega)⟩

theorem State.groupDone_eq_false_iff (s : State) (g : Nat) :
    s.groupDone g = false ↔ ∃ j, j < 4 ∧ s.doneAt (4 * g + j) = false := by
  rw [← Bool.not_eq_true, State.groupDone_iff]
  push Not
  simp only [ne_eq, Bool.not_eq_true]

/-! ### The in-play invariant (R280) -/

/-- The in-play invariant with its converse: a group is in play exactly when it is one of the block's and has a lane to do. -/
def State.InPlayExact (s : State) : Prop :=
  ∀ g, s.inplayAt g = true ↔ g < s.vcount.toNat / 4 ∧ ∃ j, j < 4 ∧ s.doneAt (4 * g + j) = false

theorem State.inPlayExact_iff (s : State) :
    s.InPlayExact ↔ ∀ g, s.inplayAt g = true ↔ g < s.vcount.toNat / 4 ∧ s.groupDone g = false := by
  simp only [State.InPlayExact, State.groupDone_eq_false_iff]

theorem State.InPlayExact.groupsOk {s : State} (h : s.InPlayExact) : s.GroupsOk := by
  rw [State.inPlayExact_iff] at h
  refine fun g _ => ⟨fun hg => ?_, fun hg hout => ?_⟩
  · exact Bool.eq_false_of_not_eq_true fun hin => absurd ((h g).1 hin).1 (by omega)
  · refine Bool.eq_true_of_not_eq_false fun hdone => ?_
    rw [(h g).2 ⟨hg, hdone⟩] at hout
    exact Bool.noConfusion hout

theorem KeepsDone.groupDone {s t : State} (h : KeepsDone s t) {g : Nat} (hg : s.groupDone g = true) :
    t.groupDone g = true := by
  rw [State.groupDone_iff] at hg ⊢
  exact fun j hj => h.done _ (hg j hj)

theorem KeepsDone.inplayAt {s t : State} (h : KeepsDone s t) (g : Nat) : t.inplayAt g = s.inplayAt g := by
  rw [State.inplayAt, State.inplayAt, h.inplay]

theorem KeepsDone.groupsOk {s t : State} (h : KeepsDone s t) (hs : s.GroupsOk) : t.GroupsOk := by
  intro g hg
  rw [h.params] at hg
  obtain ⟨hbeyond, hout⟩ := hs g hg
  rw [h.vcount, h.inplayAt]
  exact ⟨hbeyond, fun hlt hp => h.groupDone (hout hlt hp)⟩

/-- In a state that meets the invariant `VCOUNT` is at most `VCAP` (R62). -/
theorem State.ConfigOk.vcount_le {s : State} (h : s.ConfigOk) : s.vcount.toNat ≤ s.params.vcap := by
  obtain ⟨hbefore, hafter⟩ := h
  cases hc : s.configured with
  | false =>
    obtain ⟨-, -, -, -, -, hv⟩ := hbefore hc
    simp [hv]
  | true =>
    obtain ⟨-, -, -, -, -, hv⟩ := hafter hc
    exact hv

/-- No group in play exists beyond `VCOUNT`/4 (R280). -/
theorem State.Inv.lt_of_inplayAt {s : State} (h : s.Inv) {g : Nat} (hg : s.inplayAt g = true) :
    g < s.vcount.toNat / 4 := by
  obtain ⟨-, ⟨-, -, hlen, -⟩, -, -, hgroups, -⟩ := h
  have hsize : g < s.params.vcap / 4 := by
    by_contra hge
    rw [State.inplayAt, List.getD_eq_default _ _ (by omega)] at hg
    exact Bool.noConfusion hg
  by_contra hge
  rw [(hgroups g hsize).1 (by omega)] at hg
  exact Bool.noConfusion hg

/-- A group below `VCOUNT`/4 with a lane to do is in play (R280). -/
theorem State.Inv.inplayAt_of_not_groupDone {s : State} (h : s.Inv) {g : Nat} (hg : g < s.vcount.toNat / 4)
    (hd : s.groupDone g = false) : s.inplayAt g = true := by
  obtain ⟨-, -, hcfg, -, hgroups, -⟩ := h
  have hcap := hcfg.vcount_le
  refine Bool.eq_true_of_not_eq_false fun hout => ?_
  rw [(hgroups g (by omega)).2 hg hout] at hd
  exact Bool.noConfusion hd

theorem inPlayExact_of_ruleUpddone {rep : Rep} {va : VReg} {s t : State} (hs : s.Inv)
    (h : ruleUpddone rep va s = .ok t) : t.InPlayExact := by
  obtain ⟨u, hu, rfl⟩ := ruleUpddone_keepsDone h
  refine (State.inPlayExact_iff _).2 fun g => ?_
  show _ ↔ g < u.vcount.toNat / 4 ∧ u.groupDone g = false
  rw [State.inplayAt_dropRetiredGroups, Bool.and_eq_true, Bool.not_eq_true', hu.inplayAt, hu.vcount]
  refine and_congr_left fun hdone => ⟨hs.lt_of_inplayAt, fun hg => hs.inplayAt_of_not_groupDone hg ?_⟩
  exact Bool.eq_false_of_not_eq_true fun hd => absurd (hu.groupDone hd) (by simp [hdone])

/-- After `orchestrator_reset(N)` the groups below N/4 are in play, if the block has them (R282). -/
theorem State.inplayAt_orchestratorReset (s : State) (n g : Nat) :
    (s.orchestratorReset n).inplayAt g = decide (g < s.params.vcap / 4 ∧ g < n / 4) := by
  simp only [State.inplayAt, State.orchestratorReset_inplay, List.getD_eq_getElem?_getD, List.getElem?_map]
  by_cases hg : g < s.params.vcap / 4 <;> simp [hg]

/-- After `orchestrator_reset(N)` no lane is done (R282). -/
theorem State.doneAt_orchestratorReset (s : State) (n m : Nat) : (s.orchestratorReset n).doneAt m = false := by
  simp only [State.doneAt, State.orchestratorReset_done, List.getD_eq_getElem?_getD, List.getElem?_replicate]
  split <;> rfl

/-- `orchestrator_reset(VCOUNT)`, for a `VCOUNT` the block has lanes for, meets the invariant and its converse: the groups below
`VCOUNT`/4 are in play, each with all its lanes to do. -/
theorem inPlayExact_of_orchestratorReset {s t : State} {n : Nat} (hi : t.inplay = (s.orchestratorReset n).inplay)
    (hd : t.done = (s.orchestratorReset n).done) (hv : t.vcount.toNat = n) (hn : n ≤ s.params.vcap) :
    t.InPlayExact := by
  intro g
  have hin : t.inplayAt g = decide (g < s.params.vcap / 4 ∧ g < n / 4) := by
    rw [State.inplayAt, hi, ← State.inplayAt_orchestratorReset]
    rfl
  have hdone : t.doneAt (4 * g + 0) = false := by
    rw [State.doneAt, hd]
    exact State.doneAt_orchestratorReset s n _
  rw [hin, decide_eq_true_eq, hv]
  constructor
  · rintro ⟨-, hg⟩
    exact ⟨hg, 0, by omega, hdone⟩
  · rintro ⟨hg, -⟩
    exact ⟨by omega, hg⟩

/-- A completed `CONSTRUCT` has checked the value count (R160) and puts it in force. -/
theorem ruleConstruct_valuecount {s t : State} (h : ruleConstruct s = .ok t) :
    s.cfgVcount.toNat ≤ s.params.vcap ∧ ∃ i f l fb th, t = s.configure i f l fb th s.cfgVcount.toNat := by
  simp only [ruleConstruct] at h
  split_ifs at h with _ _ _ hcount
  exact ⟨by omega, _, _, _, _, _, (Except.ok.inj h).symm⟩

theorem inPlayExact_of_ruleConstruct {s t : State} (h : ruleConstruct s = .ok t) : t.InPlayExact := by
  obtain ⟨hcap, i, f, l, fb, th, rfl⟩ := ruleConstruct_valuecount h
  refine inPlayExact_of_orchestratorReset (s := s) (n := s.cfgVcount.toNat) rfl rfl ?_ hcap
  exact (BitVec.toNat_ofNat _ _).trans (Nat.mod_eq_of_lt s.cfgVcount.isLt)

/-- The commands after which the converse of R280 holds. -/
theorem commandRule_inPlayExact {i : Instr} {s t : State} (hs : s.Inv)
    (hi : i = .orst ∨ i = .construct ∨ ∃ rep va, i = .upddone rep va) (h : commandRule i s = .ok t) : t.InPlayExact := by
  rcases hi with rfl | rfl | ⟨rep, va, rfl⟩
  · obtain ⟨-, -, hcfg, -⟩ := hs
    cases h
    exact inPlayExact_of_orchestratorReset rfl rfl rfl hcfg.vcount_le
  · exact inPlayExact_of_ruleConstruct h
  · exact inPlayExact_of_ruleUpddone hs h

theorem commandRule_groupsOk {i : Instr} {s t : State} (hs : s.Inv) (h : commandRule i s = .ok t) : t.GroupsOk := by
  by_cases hi : i = .orst ∨ i = .construct ∨ ∃ rep va, i = .upddone rep va
  · exact (commandRule_inPlayExact hs hi h).groupsOk
  · push Not at hi
    obtain ⟨ho, hc, hu⟩ := hi
    obtain ⟨-, -, -, -, hgroups, -⟩ := hs
    exact (commandRule_keepsDone hc ho hu h).groupsOk hgroups

theorem State.Inv.accept {s : State} (h : s.Inv) : s.accept.Inv := h

/-! ### The host's moves -/

/-- Everything a host write can do: it runs a word at `COMMAND`, writes another slot, or breaks R81. -/
theorem hostWrite_cases {o : BitVec 23} {data : List Byte} {s t : State} (h : hostWrite o data s = .next t) :
    (o = commandOffset ∧ ∃ w, runWord w s = .next t) ∨
      (o.toNat % 8 = 0 ∧ ∃ v, t = s.writeSlot (slotOf s.params o.toNat) v) ∨ t = s.busError := by
  unfold hostWrite at h
  split_ifs at h with hok ho
  · exact .inl ⟨ho, _, h⟩
  · have halign : o.toNat % 8 = 0 := by
      simp only [accessOk, Bool.and_eq_true, beq_iff_eq] at hok
      exact hok.2
    exact .inr (.inl ⟨halign, _, (Host.Outcome.next.inj h).symm⟩)
  · exact .inr (.inr (Host.Outcome.next.inj h).symm)

/-- The host cannot write `VCOUNT`, `INPLAY` or `DONE` (R51, R85), and no control register holds a count. -/
theorem State.writeCsr_laneState (s : State) (c : Csr) (v : Cell) :
    (s.writeCsr c v).vcount = s.vcount ∧ (s.writeCsr c v).inplay = s.inplay ∧ (s.writeCsr c v).done = s.done ∧
      (s.writeCsr c v).count = s.count := by
  cases c with
  | fault =>
    simp only [State.writeCsr]
    split <;> exact ⟨rfl, rfl, rfl, rfl⟩
  | _ => exact ⟨rfl, rfl, rfl, rfl⟩

theorem State.writeSlot_laneFlags (s : State) (sl : Slot) (v : Cell) :
    (s.writeSlot sl v).vcount = s.vcount ∧ (s.writeSlot sl v).inplay = s.inplay ∧ (s.writeSlot sl v).done = s.done := by
  cases sl with
  | csr c =>
    obtain ⟨hv, hi, hd, -⟩ := s.writeCsr_laneState c v
    exact ⟨hv, hi, hd⟩
  | _ => exact ⟨rfl, rfl, rfl⟩

/-- A count changes at its own slot only. -/
theorem State.countAt_writeSlot_of_ne (s : State) {sl : Slot} {n : Nat} (h : sl ≠ .count n) (v : Cell) :
    (s.writeSlot sl v).countAt n = s.countAt n := by
  cases sl with
  | csr c =>
    obtain ⟨-, -, -, hc⟩ := s.writeCsr_laneState c v
    show (s.writeCsr c v).countAt n = s.countAt n
    rw [State.countAt, State.countAt, hc]
  | count m =>
    have hne : m ≠ n := fun e => h (congrArg Slot.count e)
    simp only [State.countAt, State.writeSlot, List.getD_eq_getElem?_getD, List.getElem?_set_ne hne]
  | _ => rfl

theorem csrOf_ne_count (c n : Nat) : csrOf c ≠ .count n := by
  unfold csrOf
  split <;> exact Slot.noConfusion

theorem scalarSlot_ne_count (p : Params) (r k n : Nat) : scalarSlot p r k ≠ .count n := by
  unfold scalarSlot
  split_ifs <;> exact Slot.noConfusion

theorem laneSlot_ne_count (p : Params) (v k m n : Nat) : laneSlot p v k m ≠ .count n := by
  unfold laneSlot
  split_ifs <;> exact Slot.noConfusion

/-- Only the offset 0x4000 + 8n names `COUNT[n]` (R85). -/
theorem offset_of_slotOf_count {p : Params} {o n : Nat} (ha : o % 8 = 0) (h : slotOf p o = .count n) :
    o = 0x4000 + 8 * n := by
  simp only [slotOf, ite_eq_iff, csrOf_ne_count, scalarSlot_ne_count, laneSlot_ne_count, reduceCtorEq, Slot.count.injEq,
    and_false, or_false, false_or] at h
  omega

/-- The in-play invariant reads the sizes, `VCOUNT`, `INPLAY` and `DONE` only. -/
theorem State.GroupsOk.writeSlot {s : State} (h : s.GroupsOk) (sl : Slot) (v : Cell) : (s.writeSlot sl v).GroupsOk := by
  obtain ⟨hv, hi, hd⟩ := s.writeSlot_laneFlags sl v
  simp only [State.GroupsOk, State.groupDone, State.inplayAt, State.doneAt, State.writeSlot_params, hv, hi, hd]
  exact h

theorem groupsOk_of_exec {i : Instr} {s t : State} (hs : s.Inv) (h : exec i s = .next t) : t.GroupsOk := by
  obtain ⟨-, -, -, -, hgroups, -⟩ := id hs
  rcases exec_cases h with ⟨-, rfl⟩ | ⟨-, x, rfl⟩ | ⟨-, hr⟩
  · exact hgroups
  · exact hgroups
  · exact commandRule_groupsOk hs.accept hr

theorem groupsOk_of_runWord {w : Word} {s t : State} (hs : s.Inv) (h : runWord w s = .next t) : t.GroupsOk := by
  cases hd : decode w with
  | ok i => exact groupsOk_of_exec hs (runWord_of_decode hd s ▸ h)
  | error e =>
    obtain ⟨-, -, -, -, hgroups, -⟩ := hs
    rcases runWord_cases h with ⟨-, rfl⟩ | ⟨-, w', x, rfl⟩ | ⟨-, i, hi, -⟩
    · exact hgroups
    · exact hgroups
    · simp [hd] at hi

/-- After reset no group is in play and `VCOUNT` is 0 (R340). -/
theorem groupsOk_resetWith (p : Params) : (State.resetWith p).GroupsOk := by
  have hout : ∀ g, (State.resetWith p).inplayAt g = false := fun g => by
    simp only [State.inplayAt, State.resetWith, List.getD_eq_getElem?_getD, List.getElem?_replicate]
    split <;> rfl
  have hnone : (State.resetWith p).vcount.toNat = 0 := rfl
  exact fun g _ => ⟨fun _ => hout g, fun hg => by omega⟩

theorem groupsOk_of_serve {e : HostEvent} {s t : State} (hs : s.Inv) (h : serve e s = .next t) : t.GroupsOk := by
  obtain ⟨-, -, -, -, hgroups, -⟩ := id hs
  cases e with
  | read o n =>
    cases h
    unfold hostRead
    split <;> exact hgroups
  | write o data =>
    rcases hostWrite_cases h with ⟨-, w, hw⟩ | ⟨-, v, rfl⟩ | rfl
    · exact groupsOk_of_runWord hs hw
    · exact hgroups.writeSlot _ v
    · exact hgroups
  | reset => cases h; exact groupsOk_resetWith s.params

theorem groupsOk_of_step {s t : State} (hs : s.Inv) (h : step s = .next t) : t.GroupsOk := by
  cases hh : s.host with
  | nil => simp [step, hh] at h
  | cons e rest =>
    rw [step_cons hh] at h
    exact groupsOk_of_serve (s := { s with host := rest }) hs h

/-! ### The settled statements -/

/-- Settles O23: a command that is no `ORST`, `CONSTRUCT` or `UPDDONE` moves no group and clears no done flag; those three leave a
group in play exactly when it has a lane to do, which gives the invariant again. -/
theorem inPlayInvariant : Obligations.InPlayInvariant := by
  refine ⟨groupsOk_resetWith, fun s t => groupsOk_of_step, fun i s t hs hi h ht => ?_⟩
  rcases exec_cases h with ⟨hv, rfl⟩ | ⟨-, x, rfl⟩ | ⟨-, hr⟩
  · simp [hv] at ht
  · simp at ht
  · exact commandRule_inPlayExact hs.accept hi hr

/-- No completed rule but those of `ORST` and `CONSTRUCT` clears a done flag, puts a group in play or changes a done lane's
count (R281). -/
theorem commandRule_doneIsFinal {i : Instr} {s t : State} (ho : i ≠ .orst) (hc : i ≠ .construct)
    (h : commandRule i s = .ok t) :
    (∀ n, s.doneAt n = true → t.doneAt n = true) ∧ (∀ g, s.inplayAt g = false → t.inplayAt g = false) ∧
      ∀ n, s.doneAt n = true → t.countAt n = s.countAt n := by
  by_cases hu : ∃ rep va, i = .upddone rep va
  · obtain ⟨rep, va, rfl⟩ := hu
    obtain ⟨u, hk, rfl⟩ := ruleUpddone_keepsDone h
    refine ⟨hk.done, fun g hg => ?_, hk.count⟩
    rw [State.inplayAt_dropRetiredGroups, hk.inplayAt, hg, Bool.false_and]
  · push Not at hu
    have hk := commandRule_keepsDone hc ho hu h
    exact ⟨hk.done, fun g hg => (hk.inplayAt g).trans hg, hk.count⟩

/-- Settles O24: `UPDDONE` updates active lanes only and then only drops groups, no other rule touches a done lane's flag or
count, and of the host's accesses only the write of `COUNT[n]` reaches a count. -/
theorem doneIsFinal : Obligations.DoneIsFinal := by
  refine ⟨fun i s t ho hc h => ?_, fun o width s t h => ?_, fun o data s t ho h => ?_⟩
  · rcases exec_cases h with ⟨-, rfl⟩ | ⟨-, x, rfl⟩ | ⟨-, hr⟩
    · exact ⟨fun _ hn => hn, fun _ hg => hg, fun _ _ => rfl⟩
    · exact ⟨fun _ hn => hn, fun _ hg => hg, fun _ _ => rfl⟩
    · exact (commandRule_doneIsFinal ho hc hr :)
  · cases h
    unfold hostRead
    split <;> exact ⟨rfl, rfl, rfl⟩
  · rcases hostWrite_cases h with ⟨hcmd, -⟩ | ⟨ha, v, rfl⟩ | rfl
    · exact absurd hcmd ho
    · obtain ⟨-, hi, hd⟩ := s.writeSlot_laneFlags (slotOf s.params o.toNat) v
      exact ⟨hd, hi, fun n hn => s.countAt_writeSlot_of_ne (fun e => hn (offset_of_slotOf_count ha e)) v⟩
    · exact ⟨rfl, rfl, fun _ _ => rfl⟩

end Sys2Proof.Machine
end

section
/-! PROOFS. Which fault a command word raises (R302, R303, R310, R311): the causes that the rules of the commands raise, the two
that the procedure of R310 raises before a rule runs, and the word a fault records. Settled here: O8, O9, O11. -/

namespace Sys2Proof.Machine

/-! ### The codes of R300 -/

theorem Cause.code_bounds (c : Cause) : 1 ≤ c.code.toNat ∧ c.code.toNat ≤ 10 := by cases c <;> decide

theorem Cause.code_eq_one_iff (c : Cause) : c.code = 0x01 ↔ c = .illegalCommand := by cases c <;> decide

theorem Cause.code_eq_two_iff (c : Cause) : c.code = 0x02 ↔ c = .notConfigured := by cases c <;> decide

/-! ### What an operation does with its operands (R200) -/

theorem operand_of_valid {f : Format} {rep : Rep} {a : Number} (h : validRep f rep a = true) :
    operand f rep a = .ok (xRep f rep a) := if_pos h

theorem operand_of_invalid {f : Format} {rep : Rep} {a : Number} (h : ¬ validRep f rep a = true) :
    operand f rep a = .error .operandInvalid := if_neg h

section
variable {α : Type} {f : Format} {rep : Rep} {a b : Number}

/-- An operation on one operand raises `OPERAND_INVALID` on an invalid one, before anything else. -/
theorem operand_bind_of_invalid (g : Int → Except Cause α) (h : ¬ validRep f rep a = true) :
    (operand f rep a >>= g) = .error .operandInvalid := by rw [operand_of_invalid h]; rfl

theorem operand_bind_of_valid (g : Int → Except Cause α) (h : validRep f rep a = true) :
    (operand f rep a >>= g) = g (xRep f rep a) := by rw [operand_of_valid h]; rfl

/-- An operation on two operands raises `OPERAND_INVALID` on an invalid one, whichever it is. -/
theorem operands_bind_of_invalid (g : Int → Int → Except Cause α)
    (h : ¬ (validRep f rep a = true ∧ validRep f rep b = true)) :
    (operand f rep a >>= fun xa => operand f rep b >>= g xa) = .error .operandInvalid := by
  by_cases ha : validRep f rep a = true
  · rw [operand_bind_of_valid _ ha, operand_bind_of_invalid _ fun hb => h ⟨ha, hb⟩]
  · rw [operand_bind_of_invalid _ ha]

theorem operands_bind_of_valid (g : Int → Int → Except Cause α) (ha : validRep f rep a = true)
    (hb : validRep f rep b = true) :
    (operand f rep a >>= fun xa => operand f rep b >>= g xa) = g (xRep f rep a) (xRep f rep b) := by
  rw [operand_bind_of_valid _ ha, operand_bind_of_valid _ hb]

end

/-! ### The causes a rule can raise -/

/-- A cause that only the rule of a command raises: none of the two that R310 raises before it. -/
abbrev Cause.OfRule (c : Cause) : Prop := c ≠ .illegalCommand ∧ c ≠ .notConfigured

/-- The operation raises causes of rules only. -/
abbrev RaisesOfRule {α : Type} (x : Except Cause α) : Prop := ∀ c, x = .error c → c.OfRule

theorem raisesOfRule_ok {α : Type} (a : α) : RaisesOfRule (.ok a) := nofun

theorem raisesOfRule_error {α : Type} {c : Cause} (hc : c.OfRule) : RaisesOfRule (.error c : Except Cause α) := by
  rintro _ ⟨⟩
  exact hc

theorem raisesOfRule_operand_bind {α : Type} {g : Int → Except Cause α} (hg : ∀ x, RaisesOfRule (g x)) (f : Format)
    (rep : Rep) (a : Number) : RaisesOfRule (operand f rep a >>= g) := by
  by_cases ha : validRep f rep a = true
  · rw [operand_bind_of_valid g ha]
    exact hg _
  · rw [operand_bind_of_invalid g ha]
    exact raisesOfRule_error (by decide)

theorem raisesOfRule_productResult (f : Format) (rep : Rep) (x : Int) (n : Nat) :
    RaisesOfRule (productResult f rep x n) := by
  unfold productResult
  split
  · exact raisesOfRule_ok _
  · exact raisesOfRule_error (by decide)

theorem raisesOfRule_opMul (f : Format) (rep : Rep) (a b : Number) : RaisesOfRule (opMul f rep a b) := by
  refine raisesOfRule_operand_bind (fun xa => raisesOfRule_operand_bind (fun xb => ?_) f rep b) f rep a
  split
  · exact raisesOfRule_ok _
  · exact raisesOfRule_productResult _ _ _ _

theorem raisesOfRule_opSqr (f : Format) (rep : Rep) (a : Number) : RaisesOfRule (opSqr f rep a) := by
  refine raisesOfRule_operand_bind (fun xa => ?_) f rep a
  split
  · exact raisesOfRule_ok _
  · exact raisesOfRule_productResult _ _ _ _

theorem raisesOfRule_opMuli (f : Format) (rep : Rep) (a : Number) (k : Int) : RaisesOfRule (opMuli f rep a k) := by
  refine raisesOfRule_operand_bind (fun xa => ?_) f rep a
  split
  · exact raisesOfRule_ok _
  · split
    · exact raisesOfRule_error (by decide)
    · exact raisesOfRule_productResult _ _ _ _

theorem raisesOfRule_opAdd (f : Format) (rep : Rep) (a b : Number) : RaisesOfRule (opAdd f rep a b) :=
  raisesOfRule_operand_bind (fun _ => raisesOfRule_operand_bind (fun _ => raisesOfRule_ok _) f rep b) f rep a

theorem raisesOfRule_opSub (f : Format) (rep : Rep) (a b : Number) : RaisesOfRule (opSub f rep a b) :=
  raisesOfRule_operand_bind (fun _ => raisesOfRule_operand_bind (fun _ => raisesOfRule_ok _) f rep b) f rep a

/-- A scalar command raises what its operation raises (R200). -/
theorem ofRule_of_scalarResult {sd : SReg} {y : Except Cause Result} {s : State} {x : Raised} (hy : RaisesOfRule y)
    (h : scalarResult sd y s = .error x) : x.cause.OfRule := by
  cases y with
  | error c => cases h; exact hy c rfl
  | ok r => cases h

theorem ofRule_of_loadScaled {rep : Rep} {sd : SReg} {v : Int} {c : Cause} {s : State} {x : Raised} (hc : c.OfRule)
    (h : loadScaled rep sd v c s = .error x) : x.cause.OfRule := by
  unfold loadScaled at h
  split_ifs at h
  cases h
  exact hc

/-- A vector command raises what its operation raises in some lane (R241). -/
theorem ofRule_of_vectorResult {vd : VReg} {op : Nat → Except Cause Result} {s : State} {x : Raised}
    (hop : ∀ n, RaisesOfRule (op n)) (h : vectorResult vd op s = .error x) : x.cause.OfRule := by
  unfold vectorResult at h
  split at h
  next e he =>
    cases h
    obtain ⟨-, n, -, c, -, -, hn, rfl⟩ := runLanes_error he
    exact hop n c hn
  next => cases h

theorem ofRule_of_validateLanes {f : Format} {rep : Rep} {lane : Nat → Number} {ns : List Nat} {x : Raised}
    (h : validateLanes f rep lane ns = .error x) : x.cause.OfRule := by
  obtain ⟨-, n, -, -, -, -, rfl⟩ := validateLanes_error h
  exact (by decide : Cause.OfRule .operandInvalid)

/-- A rule raises none of the two causes of R310: those are raised before a rule runs (R302, R303). -/
theorem ofRule_of_commandRule {i : Instr} {s : State} {x : Raised} (h : commandRule i s = .error x) :
    x.cause.OfRule := by
  cases i with
  | nop | orst | mov | ldz | ldmax | limblen | tzlimb | chk => cases h
  | construct =>
    simp only [commandRule, ruleConstruct] at h
    split_ifs at h <;> (cases h; exact ⟨nofun, nofun⟩)
  | upddone | vcmpt =>
    simp only [commandRule, ruleUpddone, ruleVcmpt] at h
    split at h
    next he => cases h; exact ofRule_of_validateLanes he
    next => cases h
  | ldi | split => exact ofRule_of_loadScaled (by decide) h
  | totc =>
    simp only [commandRule, ruleTotc] at h
    split_ifs at h
    · exact ofRule_of_loadScaled (by decide) h
    · cases h; exact ⟨nofun, nofun⟩
  | cmpt | cmpm | fromtc | join | vext | vins =>
    simp only [commandRule, ruleCmpt, ruleCmpm, ruleFromtc, ruleJoin, ruleVext, ruleVins] at h
    split_ifs at h
    cases h
    exact ⟨nofun, nofun⟩
  | add => exact ofRule_of_scalarResult (raisesOfRule_opAdd _ _ _ _) h
  | sub => exact ofRule_of_scalarResult (raisesOfRule_opSub _ _ _ _) h
  | mul => exact ofRule_of_scalarResult (raisesOfRule_opMul _ _ _ _) h
  | sqr => exact ofRule_of_scalarResult (raisesOfRule_opSqr _ _ _) h
  | muli => exact ofRule_of_scalarResult (raisesOfRule_opMuli _ _ _ _) h
  | vmov | vldz | vbcast => exact ofRule_of_vectorResult (fun _ => raisesOfRule_ok _) h
  | vadd => exact ofRule_of_vectorResult (fun _ => raisesOfRule_opAdd _ _ _ _) h
  | vsub => exact ofRule_of_vectorResult (fun _ => raisesOfRule_opSub _ _ _ _) h
  | vmul => exact ofRule_of_vectorResult (fun _ => raisesOfRule_opMul _ _ _ _) h
  | vsqr => exact ofRule_of_vectorResult (fun _ => raisesOfRule_opSqr _ _ _) h
  | vmuli => exact ofRule_of_vectorResult (fun _ => raisesOfRule_opMuli _ _ _ _) h

/-! ### The faults of a command (R310) -/

theorem needsConfig_iff (i : Instr) : needsConfig i = true ↔ i ≠ .nop ∧ i ≠ .construct := by
  cases i <;> simp [needsConfig]

/-- Everything a command that leaves a fault recorded can have done: it was refused before the first `CONSTRUCT`, or its rule
raised the fault. -/
theorem exec_fault_cases {i : Instr} {s t : State} (hs : s.faultV = false) (h : exec i s = .next t)
    (ht : t.faultV = true) :
    (s.configured = false ∧ needsConfig i = true ∧ t = s.faulted (encode i) (.unlaned .notConfigured)) ∨
      ∃ x, x.cause.OfRule ∧ t = s.faulted (encode i) x := by
  rw [exec_eq_runCommand] at h
  rcases runCommand_cases h with ⟨hv, -⟩ | ⟨-, hn, hc, rfl⟩ | ⟨-, -, x, hx, rfl⟩ | ⟨-, -, hr⟩
  · simp [hv] at hs
  · exact .inl ⟨hc, hn, rfl⟩
  · exact .inr ⟨x, ofRule_of_commandRule hx, rfl⟩
  · have hkept : t.faultV = false :=
      (commandRule_writes hr).keeps (P := fun t => t.faultV = false) (fun _ _ hw hp => hw.faultV_eq.trans hp) hs
    simp [hkept] at ht

/-- Every command but `NOP` and `CONSTRUCT` is refused while the block is not configured (R303). -/
theorem exec_of_not_configured {i : Instr} {s : State} (hs : s.faultV = false) (hc : s.configured = false)
    (hi : needsConfig i = true) : exec i s = .next (s.faulted (encode i) (.unlaned .notConfigured)) := by
  simp [exec_eq_runCommand, runCommand, hs, hc, hi]

/-! ### The word of a command read back (R111) -/

theorem repBit_repOf (w : Word) : repBit (repOf w) = bits w 8 8 := by
  have hlt : bits w 8 8 < 2 := Nat.mod_lt _ (by decide)
  unfold repOf
  split <;> simp only [repBit] <;> omega

theorem val_sreg_rdOf (w : Word) : (sreg (rdOf w)).val = rdOf w := Nat.mod_eq_of_lt (Nat.mod_lt _ (by decide))
theorem val_sreg_raOf (w : Word) : (sreg (raOf w)).val = raOf w := Nat.mod_eq_of_lt (Nat.mod_lt _ (by decide))
theorem val_sreg_rbOf (w : Word) : (sreg (rbOf w)).val = rbOf w := Nat.mod_eq_of_lt (Nat.mod_lt _ (by decide))

/-- A word of format R is put together again from its fields (R111). -/
theorem wordR_of_fields {w : Word} {opc rep rd ra rb : Nat} (hlow : bits w 11 9 = 0) (hhigh : bits w 31 24 = 0)
    (hopc : opcOf w = opc) (hrep : bits w 8 8 = rep) (hrd : rdOf w = rd) (hra : raOf w = ra) (hrb : rbOf w = rb) :
    wordR opc rep rd ra rb = w := by
  simp only [opcOf, rdOf, raOf, rbOf, bits] at *
  refine BitVec.eq_of_toNat_eq ?_
  rw [wordR, BitVec.toNat_ofNat]
  omega

/-- A word of format I is put together again from its fields (R111). -/
theorem wordI_of_fields {w : Word} {opc rep rd ra : Nat} {imm : Int} (hlow : bits w 11 9 = 0)
    (hopc : opcOf w = opc) (hrep : bits w 8 8 = rep) (hrd : rdOf w = rd) (hra : raOf w = ra)
    (himm : imm % 4096 = immOf w) : wordI opc rep rd ra imm = w := by
  simp only [opcOf, rdOf, raOf, immOf, bits] at *
  refine BitVec.eq_of_toNat_eq ?_
  rw [wordI, BitVec.toNat_ofNat]
  omega

theorem immOf_lt (w : Word) : immOf w < 4096 := Nat.mod_lt _ (by decide)

/-- The signed immediate, modulo 4096, is the field (R114). -/
theorem sext12_immOf_emod (w : Word) : sext12 (immOf w) % 4096 = immOf w := by
  have hlt := immOf_lt w
  unfold sext12
  split <;> omega

theorem immOf_emod (w : Word) : (immOf w : Int) % 4096 = immOf w := by
  have hlt := immOf_lt w
  omega

/-- The encoder writes the word a command was decoded from: no bit of a legal word is dropped (R111, R116). -/
theorem encode_of_decode {w : Word} {i : Instr} (h : decode w = .ok i) : encode i = w := by
  obtain ⟨hlow, harm⟩ := (decode_ok_iff w i).mp h
  revert harm
  unfold decodeOp
  split
  case h_34 => simp
  all_goals
    rename_i hop
    simp only [bind_eq_ok_iff, formatR_ok, noRep_ok, zeroField_ok, vreg_ok, Except.ok.injEq, exists_const,
      forall_exists_index, and_imp]
    intros
    subst i
    simp only [encode, repBit_repOf, val_sreg_rdOf, val_sreg_raOf, val_sreg_rbOf]
  case h_8 | h_13 | h_26 | h_27 | h_32 =>
    apply wordI_of_fields <;> simp [*, sext12_immOf_emod, immOf_emod]
  all_goals apply wordR_of_fields <;> simp [*]

/-! ### The faults of a word (R64, R302, R311) -/

/-- A fault that a command word leaves recorded is recorded with that word; it is `ILLEGAL_COMMAND` exactly for an illegal
word. -/
theorem runWord_fault_cases {w : Word} {s t : State} (hs : s.faultV = false) (h : runWord w s = .next t)
    (ht : t.faultV = true) : ∃ x, (x.cause = .illegalCommand ↔ ¬ LegalWord w) ∧ t = s.faulted w x := by
  by_cases hw : LegalWord w
  · obtain ⟨i, hi⟩ := (exists_decode_iff_legalWord w).mpr hw
    rw [runWord_of_decode hi] at h
    rcases exec_fault_cases hs h ht with ⟨-, -, rfl⟩ | ⟨x, ⟨hx, -⟩, rfl⟩
    · exact ⟨.unlaned .notConfigured, by simp [hw, Raised.unlaned], by rw [encode_of_decode hi]⟩
    · exact ⟨x, by simp [hw, hx], by rw [encode_of_decode hi]⟩
  · rw [runWord_of_not_legalWord hw hs] at h
    cases h
    exact ⟨.unlaned .illegalCommand, by simp [hw, Raised.unlaned], rfl⟩

/-- `STATUS.FAULTED` is bit 1 of `STATUS` (R54). -/
theorem getLsbD_status_faulted (s : State) : (s.readCsr .status).getLsbD 1 = s.faultV := by
  have hlow := Bool.toNat_le s.configured
  simp only [State.readCsr, State.statusWord, BitVec.getLsbD_ofNat, Nat.testBit_eq_decide_div_mod_eq]
  cases s.faultV <;> simp <;> omega

/-! ### Which moves change `STATUS.CONFIGURED` (R303) -/

theorem RuleWrite.configured_eq {i : Instr} {s t : State} (hi : i ≠ .construct) (h : RuleWrite i s t) :
    t.configured = s.configured := by
  cases h with
  | plain p => cases p <;> rfl
  | sreg | lane => rfl
  | configure e => exact absurd e hi

/-- Only `CONSTRUCT` can change `STATUS.CONFIGURED`. -/
theorem exec_configured_eq {i : Instr} {s t : State} (hi : i ≠ .construct) (h : exec i s = .next t) :
    t.configured = s.configured :=
  exec_field_eq State.configured rfl (fun _ _ => rfl) rfl (fun _ _ => RuleWrite.configured_eq hi) h

@[simp] theorem State.configure_configured (s : State) (i f l t thresh n : Nat) :
    (s.configure i f l t thresh n).configured = true := rfl

@[simp] theorem State.configure_faultV (s : State) (i f l t thresh n : Nat) :
    (s.configure i f l t thresh n).faultV = s.faultV := rfl

/-- `CONSTRUCT` without a fault configures the block; otherwise it leaves `STATUS.CONFIGURED` as it was. -/
theorem exec_construct_configured {s t : State} (h : exec .construct s = .next t) :
    t.configured = (s.configured || !t.faultV) := by
  rcases exec_cases h with ⟨hv, rfl⟩ | ⟨hv, x, rfl⟩ | ⟨hv, hr⟩
  · simp [hv]
  · simp
  · obtain ⟨_, _, _, _, _, _, rfl⟩ := ruleConstruct_ok hr
    simp [hv]

/-- No command clears `STATUS.CONFIGURED`. -/
theorem exec_keeps_configured {i : Instr} {s t : State} (hs : s.configured = true) (h : exec i s = .next t) :
    t.configured = true := by
  by_cases hi : i = .construct
  · subst hi
    rw [exec_construct_configured h, hs, Bool.true_or]
  · rw [exec_configured_eq hi h, hs]

/-- An illegal word changes nothing but `CMDCNT`, the fault record and `STATUS.DROPPED`. -/
theorem runIllegal_configured {w : Word} {s t : State} (h : runIllegal w s = .next t) : t.configured = s.configured := by
  unfold runIllegal at h
  split at h <;> (cases h; rfl)

theorem State.writeCsr_configured (s : State) (c : Csr) (v : Cell) : (s.writeCsr c v).configured = s.configured := by
  cases c with
  | fault => simp only [State.writeCsr]; split <;> rfl
  | _ => rfl

/-- No slot of the window but `COMMAND` reaches `STATUS.CONFIGURED` (R51, R54). -/
theorem State.writeSlot_configured (s : State) (sl : Slot) (v : Cell) :
    (s.writeSlot sl v).configured = s.configured := by
  cases sl with
  | csr c => exact s.writeCsr_configured c v
  | _ => rfl

theorem hostRead_configured (o : BitVec 23) (width : Nat) (s : State) :
    (hostRead o width s).configured = s.configured := by
  unfold hostRead
  split <;> rfl

/-! ### The settled statements -/

/-- Settles O8: an illegal word runs no rule, and a legal one runs a rule, which raises other causes. -/
theorem illegalWordsFault : Obligations.IllegalWordsFault := by
  refine fun w s hs => ⟨fun hw => runWord_of_not_legalWord hw hs, fun hw t h ht hc => ?_⟩
  obtain ⟨x, hx, rfl⟩ := runWord_fault_cases hs h ht
  exact hx.mp ((Cause.code_eq_one_iff _).mp hc) hw

/-- Settles O9: the procedure of R310 refuses every command but two before its rule runs, no rule raises that cause, and only a
completed `CONSTRUCT` writes `STATUS.CONFIGURED`. -/
theorem notConfigured : Obligations.NotConfigured := by
  refine ⟨fun i s hs hc hn hk => exec_of_not_configured hs hc ((needsConfig_iff i).mpr ⟨hn, hk⟩),
    fun i s t hs h ht hcause => ?_, fun _ => rfl, fun i s t hs h ht => ?_, fun i s t => exec_keeps_configured,
    fun w s t hd h => ?_, fun o width s t h => ?_, fun o data s t ho h => ?_⟩
  · rcases exec_fault_cases hs h ht with ⟨hc, hi, -⟩ | ⟨x, ⟨-, hx⟩, rfl⟩
    · exact ⟨hc, (needsConfig_iff i).mp hi⟩
    · exact absurd ((Cause.code_eq_two_iff _).mp hcause) hx
  · by_cases hi : i = .construct
    · subst hi
      rw [exec_construct_configured h, hs, Bool.false_or, Bool.not_eq_true'] at ht
      exact ⟨rfl, ht⟩
    · rw [exec_configured_eq hi h, hs] at ht
      exact absurd ht Bool.false_ne_true
  · cases hw : decode w with
    | ok i => exact absurd hw (hd i)
    | error e => exact runIllegal_configured (runWord_of_illegal hw s ▸ h)
  · cases h
    exact hostRead_configured o width s
  · rcases hostWrite_cases h with ⟨hcmd, -⟩ | ⟨-, v, rfl⟩ | rfl
    · exact absurd hcmd ho
    · exact s.writeSlot_configured _ v
    · rfl

/-- Settles O11: the fault of a word is the update `faulted` of its state, with one of the ten causes of R300. -/
theorem faultWritesExactlyTheRecord : Obligations.FaultWritesExactlyTheRecord := by
  intro w s t hs h ht
  obtain ⟨x, -, rfl⟩ := runWord_fault_cases hs h ht
  obtain ⟨hlow, hhigh⟩ := x.cause.code_bounds
  exact ⟨⟨x.cause.code, x.lane, hlow, hhigh, rfl⟩, getLsbD_status_faulted _⟩

end Sys2Proof.Machine
end

section
/-! PROOFS. The multiplication datapath is exact (R150 to R153): the bins of a product, a square and a small product sum to the
product, and `sum_partials` keeps that sum. With it an operation on valid operands is one range check of the exact result. -/

namespace Sys2Proof.Machine

/-! ### Sums of bins (R150) -/

@[simp] theorem length_addToBin (bins : List Nat) (k v : Nat) : (addToBin bins k v).length = bins.length := by
  simp [addToBin]

@[simp] theorem length_accumulate (b : Nat) (bins : List Nat) (k p : Nat) :
    (accumulate b bins k p).length = bins.length := by simp [accumulate]

@[simp] theorem weightedSum_replicate_zero (b n : Nat) : weightedSum b (List.replicate n 0) = 0 := by
  induction n with
  | zero => rfl
  | succ n ih => rw [List.replicate_succ, weightedSum_cons, ih, mul_zero, zero_add]

theorem weightedSum_addToBin (b v : Nat) {bins : List Nat} {k : Nat} (hk : k < bins.length) :
    weightedSum b (addToBin bins k v) = weightedSum b bins + v * 2 ^ (b * k) := by
  induction bins generalizing k with
  | nil => simp at hk
  | cons x bins ih =>
    cases k with
    | zero => simp [addToBin, add_right_comm]
    | succ k =>
      have htail : addToBin (x :: bins) (k + 1) v = x :: addToBin bins k v := by simp [addToBin]
      rw [htail, weightedSum_cons, weightedSum_cons, ih (Nat.lt_of_succ_lt_succ hk), mul_add_one b k, pow_add]
      ring

/-- The two halves of a partial product together weigh what it weighs. -/
theorem weightedSum_accumulate (b p : Nat) {bins : List Nat} {k : Nat} (hk : k + 1 < bins.length) :
    weightedSum b (accumulate b bins k p) = weightedSum b bins + p * 2 ^ (b * k) := by
  have hhalves : p % 2 ^ b * 2 ^ (b * k) + p / 2 ^ b * 2 ^ (b * (k + 1)) = p * 2 ^ (b * k) := by
    rw [mul_add_one b k, pow_add]
    conv_rhs => rw [← Nat.mod_add_div p (2 ^ b)]
    ring
  rw [accumulate, weightedSum_addToBin b _ (by simpa using hk), weightedSum_addToBin b _ (by omega), add_assoc, hhalves]

/-- The weight of a list of partial products, each with its position. -/
def productWeight (b : Nat) (ps : List (Nat × Nat)) : Nat := (ps.map fun p => p.2 * 2 ^ (b * p.1)).sum

theorem weightedSum_foldl_accumulate (b : Nat) {ps : List (Nat × Nat)} {bins : List Nat}
    (h : ∀ p ∈ ps, p.1 + 1 < bins.length) :
    weightedSum b (ps.foldl (fun bins p => accumulate b bins p.1 p.2) bins) = weightedSum b bins + productWeight b ps := by
  induction ps generalizing bins with
  | nil => simp [productWeight]
  | cons p ps ih =>
    obtain ⟨hp, hps⟩ := List.forall_mem_cons.1 h
    rw [List.foldl_cons, ih (by simpa using hps), weightedSum_accumulate b _ hp]
    simp [productWeight, add_assoc]

theorem length_foldl_accumulate (b : Nat) (ps : List (Nat × Nat)) (bins : List Nat) :
    (ps.foldl (fun bins p => accumulate b bins p.1 p.2) bins).length = bins.length := by
  induction ps generalizing bins with
  | nil => rfl
  | cons p ps ih => rw [List.foldl_cons, ih, length_accumulate]

/-! ### The weight of the partial products (R150, R151) -/

theorem sum_map_range_eq_sumBelow (n : Nat) (g : Nat → Nat) : ((List.range n).map g).sum = sumBelow n g := by
  induction n with
  | zero => rfl
  | succ n ih => rw [List.sum_range_succ, ih, sumBelow_succ]

/-- The digits of an integer below 2^T weigh what it is. -/
theorem sum_natDigit {f : Format} (h : f.Legal) {a : Nat} (ha : a < 2 ^ f.t) :
    ((List.range f.l).map fun k => natDigit f.b a k * 2 ^ (f.b * k)).sum = a := by
  rw [sum_map_range_eq_sumBelow, sumBelow_natDigit, ← h.t_eq_mul, Nat.mod_eq_of_lt ha]

theorem productWeight_flatMap (b : Nat) (js : List Nat) (g : Nat → List (Nat × Nat)) :
    productWeight b (js.flatMap g) = (js.map fun j => productWeight b (g j)).sum := by
  induction js with
  | nil => rfl
  | cons j js ih =>
    rw [List.flatMap_cons, List.map_cons, List.sum_cons, ← ih]
    simp [productWeight]

theorem productWeight_partialProducts {f : Format} (h : f.Legal) {a c : Nat} (ha : a < 2 ^ f.t) (hc : c < 2 ^ f.t) :
    productWeight f.b (partialProducts f a c) = a * c := by
  have hrow : ∀ j, productWeight f.b ((List.range f.l).map fun i => (j + i, natDigit f.b a j * natDigit f.b c i)) =
      natDigit f.b a j * 2 ^ (f.b * j) * c := fun j => by
    conv_rhs => rw [← sum_natDigit h hc, ← List.sum_map_mul_left]
    simp only [productWeight, List.map_map]
    congr 2
    funext i
    simp only [Function.comp_apply, mul_add, pow_add]
    ring
  simp only [partialProducts, productWeight_flatMap, hrow, List.sum_map_mul_right, sum_natDigit h ha]

/-- The partial products of `bins_sqr(A)` (R151), each with its position. -/
def squareProducts (f : Format) (a : Nat) : List (Nat × Nat) :=
  (List.range f.l).flatMap fun j => (List.range' j (f.l - j)).map fun i =>
    (j + i, if i ≠ j then 2 * (natDigit f.b a j * natDigit f.b a i) else natDigit f.b a j * natDigit f.b a i)

theorem binsSqr_eq_foldl_squareProducts (f : Format) (a : Nat) :
    binsSqr f a =
      (squareProducts f a).foldl (fun bins p => accumulate f.b bins p.1 p.2) (List.replicate (2 * f.l) 0) := by
  simp only [binsSqr, squareProducts, List.foldl_flatMap, List.foldl_map]

/-- The upper triangle with its off-diagonal products doubled is the square of the sum (R151). -/
theorem sum_upperTriangle (x : Nat → Nat) (m j : Nat) :
    ((List.range' j m).map fun k => ((List.range' k (j + m - k)).map fun i =>
      if i ≠ k then 2 * (x k * x i) else x k * x i).sum).sum =
    ((List.range' j m).map x).sum * ((List.range' j m).map x).sum := by
  induction m generalizing j with
  | zero => rfl
  | succ m ih =>
    have hoff : ((List.range' (j + 1) m).map fun i => if i ≠ j then 2 * (x j * x i) else x j * x i).sum =
        2 * x j * ((List.range' (j + 1) m).map x).sum := by
      rw [← List.sum_map_mul_left]
      refine congrArg List.sum (List.map_congr_left fun i hi => ?_)
      have hne : i ≠ j := by
        have := (List.mem_range'_1.1 hi).1
        omega
      rw [if_pos hne, mul_assoc]
    have hshift : j + (m + 1) = j + 1 + m := by omega
    have hfirst : j + 1 + m - j = m + 1 := by omega
    rw [hshift, List.range'_succ, List.map_cons, List.map_cons, List.sum_cons, List.sum_cons, ih, hfirst,
      List.range'_succ, List.map_cons, List.sum_cons, hoff, if_neg (not_not.2 rfl)]
    ring

theorem productWeight_squareProducts {f : Format} (h : f.Legal) {a : Nat} (ha : a < 2 ^ f.t) :
    productWeight f.b (squareProducts f a) = a * a := by
  have htriangle := sum_upperTriangle (fun k => natDigit f.b a k * 2 ^ (f.b * k)) f.l 0
  rw [← List.range_eq_range', sum_natDigit h ha] at htriangle
  rw [← htriangle, squareProducts, productWeight_flatMap]
  simp only [productWeight, List.map_map, zero_add]
  refine congrArg List.sum (List.map_congr_left fun j _ => congrArg List.sum (List.map_congr_left fun i _ => ?_))
  simp only [Function.comp_apply, mul_add, pow_add]
  split <;> ring

/-- The partial products of `bins_muli(A, m)` (R151), each with its position. -/
def smallProducts (f : Format) (a m : Nat) : List (Nat × Nat) :=
  (List.range f.l).map fun i => (i, natDigit f.b a i * m)

theorem binsMuli_eq_foldl_smallProducts (f : Format) (a m : Nat) :
    binsMuli f a m =
      (smallProducts f a m).foldl (fun bins p => accumulate f.b bins p.1 p.2) (List.replicate (f.l + 1) 0) := by
  simp only [binsMuli, smallProducts, List.foldl_map]

theorem productWeight_smallProducts {f : Format} (h : f.Legal) {a : Nat} (ha : a < 2 ^ f.t) (m : Nat) :
    productWeight f.b (smallProducts f a m) = a * m := by
  conv_rhs => rw [← sum_natDigit h ha, ← List.sum_map_mul_right]
  simp only [productWeight, smallProducts, List.map_map]
  congr 2
  funext i
  exact mul_right_comm _ m _

/-! ### `sum_partials` (R152) -/

/-- Carry propagation keeps the sum, up to the carry out of the last bin. -/
theorem weightedSum_sumPartialsFrom (b c : Nat) (bins : List Nat) :
    weightedSum b (sumPartialsFrom b c bins).digits = (c + weightedSum b bins) % 2 ^ (b * bins.length) := by
  induction bins generalizing c with
  | nil => simp [sumPartialsFrom, Nat.mod_one]
  | cons x bins ih =>
    have hdiv : (c + (x + 2 ^ b * weightedSum b bins)) / 2 ^ b = (x + c) / 2 ^ b + weightedSum b bins := by
      rw [← add_assoc, add_comm c x, Nat.add_mul_div_left _ _ (by positivity)]
    have hmod : (c + (x + 2 ^ b * weightedSum b bins)) % 2 ^ b = (x + c) % 2 ^ b := by
      rw [← add_assoc, add_comm c x, Nat.add_mul_mod_self_left]
    simp only [sumPartialsFrom, weightedSum_cons, ih, List.length_cons]
    rw [mul_add_one b bins.length, add_comm (b * bins.length), pow_add, Nat.mod_mul, hdiv, hmod]

/-- Partial products whose weight fits the bins come out of `sum_partials` as digits of that weight. -/
theorem weightedSum_sumPartials {b n : Nat} {ps : List (Nat × Nat)} (hpos : ∀ p ∈ ps, p.1 + 1 < n)
    (hfit : productWeight b ps < 2 ^ (b * n)) :
    weightedSum b (sumPartials b
      (ps.foldl (fun bins p => accumulate b bins p.1 p.2) (List.replicate n 0))).digits = productWeight b ps := by
  have hbins := weightedSum_foldl_accumulate b (bins := List.replicate n 0) (by simpa using hpos)
  rw [sumPartials, weightedSum_sumPartialsFrom, hbins, length_foldl_accumulate, List.length_replicate,
    weightedSum_replicate_zero, zero_add, zero_add, Nat.mod_eq_of_lt hfit]

section
variable {f : Format} (h : f.Legal) {a c : Nat} (ha : a < 2 ^ f.t)
include h ha

/-- Two operands' product fits 2L digits. -/
theorem mul_lt_two_pow_bins (hc : c < 2 ^ f.t) : a * c < 2 ^ (f.b * (2 * f.l)) := by
  have hsplit : f.b * (2 * f.l) = f.t + f.t := by rw [h.t_eq_mul]; ring
  rw [hsplit, pow_add]
  exact Nat.mul_lt_mul'' ha hc

theorem weightedSum_binsMul (hc : c < 2 ^ f.t) : weightedSum f.b (sumPartials f.b (binsMul f a c)).digits = a * c := by
  have hweight := productWeight_partialProducts h ha hc
  rw [binsMul_eq_foldl_partialProducts, weightedSum_sumPartials, hweight]
  · simp only [partialProducts, List.mem_flatMap, List.mem_map, List.mem_range]
    rintro _ ⟨j, hj, i, hi, rfl⟩
    show j + i + 1 < 2 * f.l
    omega
  · rw [hweight]
    exact mul_lt_two_pow_bins h ha hc

theorem weightedSum_binsSqr : weightedSum f.b (sumPartials f.b (binsSqr f a)).digits = a * a := by
  have hweight := productWeight_squareProducts h ha
  rw [binsSqr_eq_foldl_squareProducts, weightedSum_sumPartials, hweight]
  · simp only [squareProducts, List.mem_flatMap, List.mem_map, List.mem_range, List.mem_range'_1]
    rintro _ ⟨j, hj, i, ⟨-, hi⟩, rfl⟩
    show j + i + 1 < 2 * f.l
    omega
  · rw [hweight]
    exact mul_lt_two_pow_bins h ha ha

theorem weightedSum_binsMuli {m : Nat} (hm : m < 2 ^ f.b) :
    weightedSum f.b (sumPartials f.b (binsMuli f a m)).digits = a * m := by
  have hweight := productWeight_smallProducts h ha m
  rw [binsMuli_eq_foldl_smallProducts, weightedSum_sumPartials, hweight]
  · simp only [smallProducts, List.mem_map, List.mem_range]
    rintro _ ⟨i, hi, rfl⟩
    exact Nat.succ_lt_succ hi
  · rw [hweight, mul_add_one f.b, ← h.t_eq_mul, pow_add]
    exact Nat.mul_lt_mul'' ha hm

end

/-! ### An operation on valid operands (R201 to R203) -/

/-- The magnitude of a valid operand is below 2^T (R146). -/
theorem natAbs_xRep_lt {f : Format} (h : f.Legal) {rep : Rep} {a : Number} (ha : validRep f rep a = true) :
    (xRep f rep a).natAbs < 2 ^ f.t := by
  cases rep with
  | sm =>
    rw [xRep, natAbs_xSM, mag_eq_wordValue ha]
    exact wordValue_lt h a
  | tc =>
    obtain ⟨hlo, hhi⟩ := x2C_bounds h a
    have hpow : (2 : Int) ^ f.t = 2 * 2 ^ (f.t - 1) := mod_cast h.two_pow_t
    have hpos : (0 : Int) < 2 ^ (f.t - 1) := by positivity
    rw [xRep]
    zify
    exact abs_lt.2 ⟨by omega, by omega⟩

theorem productResult_of_inrange {f : Format} {rep : Rep} {x : Int} (n : Nat) (hx : inrangeRep f rep x = true) :
    productResult f rep x n = .ok { value := encRep f rep x, mcarries := n, saturated := false } := if_pos hx

theorem productResult_of_not_inrange {f : Format} {rep : Rep} {x : Int} (n : Nat) (hx : ¬ inrangeRep f rep x = true) :
    productResult f rep x n = .error .mulOverflow := if_neg hx

/-- Zero is in every range (R146). -/
theorem inrangeRep_zero (f : Format) (rep : Rep) : inrangeRep f rep 0 = true := by
  cases rep <;> simp [inrangeRep, inrangeSM, inrange2C]

/-- The result 0 of a product with a factor 0 is the range check of a product 0 (R201). -/
theorem plain_zero_eq_productResult (f : Format) (rep : Rep) :
    (.ok (.plain (encRep f rep 0)) : Except Cause Result) = productResult f rep 0 0 :=
  (productResult_of_inrange 0 (inrangeRep_zero f rep)).symm

/-- The magnitudes' product with the sign of R201 is the product. -/
theorem signedProduct_natAbs_mul {x y : Int} (hx : x ≠ 0) (hy : y ≠ 0) :
    signedProduct x y (x.natAbs * y.natAbs) = x * y := by
  unfold signedProduct
  rcases lt_or_gt_of_ne hx with hx | hx <;> rcases lt_or_gt_of_ne hy with hy | hy
  all_goals simp [hx, hy, hx.not_gt, hy.not_gt, abs_of_neg, abs_of_pos]

section
variable {f : Format} (h : f.Legal) {rep : Rep} {a b : Number} (ha : validRep f rep a = true)
include h ha

/-- `MUL` of valid operands is the range check of the truncated product (R155, R201). -/
theorem opMul_of_valid (hb : validRep f rep b = true) :
    ∃ n, opMul f rep a b = productResult f rep (truncatedProduct f (xRep f rep a) (xRep f rep b)) n := by
  rw [opMul, operands_bind_of_valid _ ha hb]
  split
  case isTrue h0 =>
    have hzero : truncatedProduct f (xRep f rep a) (xRep f rep b) = 0 := by
      rcases h0 with h0 | h0 <;> simp [truncatedProduct, signedProduct, h0]
    exact ⟨0, by rw [hzero, plain_zero_eq_productResult]⟩
  case isFalse =>
    refine ⟨(sumPartials f.b (binsMul f (xRep f rep a).natAbs (xRep f rep b).natAbs)).mcarries, ?_⟩
    simp only [shiftAndTrim, weightedSum_binsMul h (natAbs_xRep_lt h ha) (natAbs_xRep_lt h hb), truncatedProduct]

/-- `SQR` of a valid operand is the range check of the truncated square (R155, R202). -/
theorem opSqr_of_valid :
    ∃ n, opSqr f rep a = productResult f rep (truncatedProduct f (xRep f rep a) (xRep f rep a)) n := by
  rw [opSqr, operand_bind_of_valid _ ha]
  split
  case isTrue h0 => exact ⟨0, by simp [truncatedProduct, signedProduct, h0, plain_zero_eq_productResult]⟩
  case isFalse =>
    refine ⟨(sumPartials f.b (binsSqr f (xRep f rep a).natAbs)).mcarries, ?_⟩
    simp only [shiftAndTrim, weightedSum_binsSqr h (natAbs_xRep_lt h ha), truncatedProduct, signedProduct, if_true]

/-- `MULI` of a valid operand and a factor it admits is the range check of the exact product (R203). -/
theorem opMuli_of_admits {k : Int} (hk : SImmOk k) (hadm : muliAdmits f (xRep f rep a) k) :
    ∃ n, opMuli f rep a k = productResult f rep (xRep f rep a * k) n := by
  rw [opMuli, operand_bind_of_valid _ ha]
  split
  case isTrue h0 =>
    have hzero : xRep f rep a * k = 0 := mul_eq_zero.2 h0
    exact ⟨0, by rw [hzero, plain_zero_eq_productResult]⟩
  case isFalse h0 =>
    obtain ⟨hx, hk0⟩ := not_or.1 h0
    have hfits : bitlen ((xRep f rep a).natAbs / 2 ^ f.f) + bitlen k.natAbs ≤ f.i :=
      (hadm.resolve_left hx).resolve_left hk0
    have hsmall : k.natAbs < 2 ^ f.b := by
      have hmono : 2 ^ 31 ≤ 2 ^ f.b := Nat.pow_le_pow_right two_pos h.b_le.1
      omega
    refine ⟨(sumPartials f.b (binsMuli f (xRep f rep a).natAbs k.natAbs)).mcarries, ?_⟩
    rw [if_neg hfits.not_gt]
    simp only [weightedSum_binsMuli h (natAbs_xRep_lt h ha) hsmall, signedProduct_natAbs_mul hx hk0]

omit h in
/-- `MULI` of a valid operand and a factor that its static check stops (R203). -/
theorem opMuli_of_not_admits {k : Int} (hadm : ¬ muliAdmits f (xRep f rep a) k) :
    opMuli f rep a k = .error .mulOverflow := by
  obtain ⟨hx, hk0, hlong⟩ : xRep f rep a ≠ 0 ∧ k ≠ 0 ∧
      ¬ bitlen ((xRep f rep a).natAbs / 2 ^ f.f) + bitlen k.natAbs ≤ f.i := by
    simpa only [muliAdmits, not_or] using hadm
  rw [opMuli, operand_bind_of_valid _ ha, if_neg (not_or.2 ⟨hx, hk0⟩), if_pos (not_le.1 hlong)]

end

end Sys2Proof.Machine
end

section
/-! PROOFS. The lowest failing lane (R314): the lane loops stop at the first active lane that fails, and in a lane validation
comes before the product. Settled here: O13. -/

namespace Sys2Proof.Machine

/-! ### The first failure in ascending order (R241) -/

/-- The lanes before an active lane in the order of R241 are the lower active lanes. -/
theorem exists_activeLanes_eq_append {s : State} {n : Nat} (hn : s.isActive n = true) :
    ∃ pre post, s.activeLanes = pre ++ n :: post ∧ ∀ m ∈ pre, m < n ∧ s.isActive m = true := by
  obtain ⟨pre, post, hsplit⟩ := List.append_of_mem ((s.mem_activeLanes n).2 hn)
  have hsorted : (pre ++ n :: post).Pairwise (· < ·) := hsplit ▸ List.pairwise_lt_range.filter _
  refine ⟨pre, post, hsplit, fun m hm => ⟨(List.pairwise_append.1 hsorted).2.2 m hm n (by simp), ?_⟩⟩
  rw [← State.mem_activeLanes, hsplit]
  exact List.mem_append_left _ hm

theorem runLanes_append_cons {op : Nat → Except Cause Result} {pre : List Nat} {n : Nat} {c : Cause}
    (hpre : ∀ m ∈ pre, ∃ r, op m = .ok r) (hn : op n = .error c) (post : List Nat) :
    runLanes op (pre ++ n :: post) = .error (.atLane c n) := by
  induction pre with
  | nil => simp [runLanes, hn]
  | cons m pre ih =>
    obtain ⟨⟨r, hr⟩, hrest⟩ := List.forall_mem_cons.1 hpre
    simp [runLanes, hr, ih hrest]

theorem validateLanes_append_cons {f : Format} {rep : Rep} {lane : Nat → Number} {pre : List Nat} {n : Nat}
    (hpre : ∀ m ∈ pre, validRep f rep (lane m) = true) (hn : ¬ validRep f rep (lane n) = true) (post : List Nat) :
    validateLanes f rep lane (pre ++ n :: post) = .error (.atLane .operandInvalid n) := by
  induction pre with
  | nil => simp [validateLanes, hn]
  | cons m pre ih =>
    obtain ⟨hm, hrest⟩ := List.forall_mem_cons.1 hpre
    simp [validateLanes, hm, ih hrest]

/-- The validation loop stops at the lowest invalid active lane. -/
theorem validateLanes_activeLanes {s : State} {n : Nat} {rep : Rep} {va : VReg} (hn : s.isActive n = true)
    (hbelow : ∀ m, m < n → s.isActive m = true → validRep s.format rep (s.laneAt va m) = true)
    (hbad : ¬ validRep s.format rep (s.laneAt va n) = true) :
    validateLanes s.format rep (s.laneAt va) s.activeLanes = .error (.atLane .operandInvalid n) := by
  obtain ⟨pre, post, hsplit, hpre⟩ := exists_activeLanes_eq_append hn
  rw [hsplit, validateLanes_append_cons (fun m hm => hbelow m (hpre m hm).1 (hpre m hm).2) hbad]

theorem ruleVcmpt_error {rep : Rep} {va : VReg} {s : State} {x : Raised}
    (h : validateLanes s.format rep (s.laneAt va) s.activeLanes = .error x) : ruleVcmpt rep va s = .error x := by
  rw [ruleVcmpt, h]

theorem ruleUpddone_error {rep : Rep} {va : VReg} {s : State} {x : Raised}
    (h : validateLanes s.format rep (s.laneAt va) s.activeLanes = .error x) : ruleUpddone rep va s = .error x := by
  rw [ruleUpddone, h]

/-! ### A fault at a lane -/

/-- A command that is not turned away and whose rule raises a fault at a lane (R310, R311). -/
theorem commandFaults_of_rule {i : Instr} {s : State} {c : Cause} {n : Nat} (hs : s.Ready)
    (h : commandRule i s.accept = .error (.atLane c n)) : CommandFaults i s c.code (BitVec.ofNat 32 n) := by
  obtain ⟨hv, hc⟩ := hs
  rw [CommandFaults, exec_eq_runCommand, runCommand_error hv (fun _ => hc) h]
  rfl

/-- A command that is the vector procedure faults at the lowest active lane in which its operation fails. -/
theorem commandFaults_of_lane {i : Instr} {s : State} {n : Nat} {vd : VReg} {op : Nat → Except Cause Result} {c : Cause}
    (hs : s.Ready) (hn : s.isActive n = true) (hrule : commandRule i s.accept = vectorResult vd op s.accept)
    (hbelow : ∀ m, m < n → s.isActive m = true → ∃ r, op m = .ok r) (hc : op n = .error c) :
    CommandFaults i s c.code (BitVec.ofNat 32 n) := by
  obtain ⟨pre, post, hsplit, hpre⟩ := exists_activeLanes_eq_append hn
  have hrun := runLanes_append_cons (fun m hm => hbelow m (hpre m hm).1 (hpre m hm).2) hc post
  refine commandFaults_of_rule hs ?_
  rw [hrule, vectorResult, State.accept_activeLanes, hsplit, hrun]

/-! ### What decides whether a lane fails (R201 to R205) -/

/-- A lane's operation whose answer two conditions decide: invalid operands raise `OPERAND_INVALID`; a product of valid ones that
does not fit raises `MUL_OVERFLOW`. -/
structure ProductOutcome (y : Except Cause Result) (valid fits : Prop) : Prop where
  completes : valid → fits → ∃ r, y = .ok r
  invalid : ¬ valid → y = .error .operandInvalid
  overflow : valid → ¬ fits → y = .error .mulOverflow

/-- An operation that on valid operands is a range check. -/
theorem ProductOutcome.of_productResult {f : Format} {rep : Rep} {x : Int} {y : Except Cause Result} {valid : Prop}
    (hinvalid : ¬ valid → y = .error .operandInvalid) (hvalid : valid → ∃ n, y = productResult f rep x n) :
    ProductOutcome y valid (inrangeRep f rep x = true) where
  completes hv hx := by
    obtain ⟨n, rfl⟩ := hvalid hv
    exact ⟨_, productResult_of_inrange n hx⟩
  invalid := hinvalid
  overflow hv hx := by
    obtain ⟨n, rfl⟩ := hvalid hv
    exact productResult_of_not_inrange n hx

theorem opAdd_of_valid {f : Format} {rep : Rep} {a b : Number}
    (ha : validRep f rep a = true) (hb : validRep f rep b = true) :
    opAdd f rep a b = .ok (saturate f rep (xRep f rep a + xRep f rep b)) := operands_bind_of_valid _ ha hb

theorem opSub_of_valid {f : Format} {rep : Rep} {a b : Number}
    (ha : validRep f rep a = true) (hb : validRep f rep b = true) :
    opSub f rep a b = .ok (saturate f rep (xRep f rep a - xRep f rep b)) := operands_bind_of_valid _ ha hb

section
variable {f : Format} (h : f.Legal) (rep : Rep) (a b : Number)
include h

theorem productOutcome_opMul : ProductOutcome (opMul f rep a b) (validRep f rep a = true ∧ validRep f rep b = true)
    (inrangeRep f rep (truncatedProduct f (xRep f rep a) (xRep f rep b)) = true) :=
  .of_productResult (operands_bind_of_invalid _) fun ⟨ha, hb⟩ => opMul_of_valid h ha hb

theorem productOutcome_opSqr : ProductOutcome (opSqr f rep a) (validRep f rep a = true)
    (inrangeRep f rep (truncatedProduct f (xRep f rep a) (xRep f rep a)) = true) :=
  .of_productResult (operand_bind_of_invalid _) (opSqr_of_valid h)

/-- `MULI` has two checks of its product: the static one, and the range check (R203). -/
theorem productOutcome_opMuli {k : Int} (hk : SImmOk k) : ProductOutcome (opMuli f rep a k) (validRep f rep a = true)
    (muliAdmits f (xRep f rep a) k ∧ inrangeRep f rep (xRep f rep a * k) = true) where
  completes ha := fun ⟨hadm, hx⟩ => by
    obtain ⟨n, hn⟩ := opMuli_of_admits h ha hk hadm
    exact ⟨_, hn.trans (productResult_of_inrange n hx)⟩
  invalid := operand_bind_of_invalid _
  overflow ha hfits := by
    by_cases hadm : muliAdmits f (xRep f rep a) k
    · obtain ⟨n, hn⟩ := opMuli_of_admits h ha hk hadm
      exact hn.trans (productResult_of_not_inrange n fun hx => hfits ⟨hadm, hx⟩)
    · exact opMuli_of_not_admits ha hadm

end

/-- A vector product faults at the lowest active lane that fails, with the cause of that lane. -/
theorem commandFaults_of_productOutcome {i : Instr} {s : State} {n : Nat} {vd : VReg} {op : Nat → Except Cause Result}
    {valid fits : Nat → Prop} (hs : s.Ready) (hn : s.isActive n = true)
    (hrule : commandRule i s.accept = vectorResult vd op s.accept) (hop : ∀ m, ProductOutcome (op m) (valid m) (fits m))
    (hbelow : ∀ m, m < n → s.isActive m = true → valid m ∧ fits m) :
    (¬ valid n → CommandFaults i s 0x07 (BitVec.ofNat 32 n)) ∧
      (valid n → ¬ fits n → CommandFaults i s 0x08 (BitVec.ofNat 32 n)) := by
  have hdone : ∀ m, m < n → s.isActive m = true → ∃ r, op m = .ok r := fun m hm ha =>
    (hop m).completes (hbelow m hm ha).1 (hbelow m hm ha).2
  exact ⟨fun hv => commandFaults_of_lane hs hn hrule hdone ((hop n).invalid hv),
    fun hv hf => commandFaults_of_lane hs hn hrule hdone ((hop n).overflow hv hf)⟩

/-! ### The settled statement -/

/-- A configured block has a legal format (R159). -/
theorem State.Inv.format_legal {s : State} (hinv : s.Inv) (hc : s.configured = true) : s.format.Legal := by
  obtain ⟨-, -, ⟨-, hconf⟩, -⟩ := hinv
  exact (hconf hc).1

/-- Settles O13: each of the seven commands stops at its first failing lane, and what fails in a lane is `ProductOutcome` or
validity alone. -/
theorem lowestFailingLane : Obligations.LowestFailingLane := by
  intro s hinv hs rep vd va vb k n hk hn
  have hf := hinv.format_legal hs.2
  refine ⟨fun hbelow => ?_, commandFaults_of_productOutcome hs hn rfl fun m => productOutcome_opSqr hf rep _,
    commandFaults_of_productOutcome hs hn rfl fun m => productOutcome_opMuli hf rep _ hk, fun hbelow hbad => ⟨?_, ?_⟩,
    fun hbelow hbad => ?_⟩
  · obtain ⟨hinvalid, hoverflow⟩ := commandFaults_of_productOutcome (i := .vmul rep vd va vb) hs hn rfl
      (fun m => productOutcome_opMul hf rep _ _) fun m hm ha => and_assoc.2 (hbelow m hm ha)
    exact ⟨hinvalid, fun ha hb => hoverflow ⟨ha, hb⟩⟩
  · exact commandFaults_of_lane hs hn rfl
      (fun m hm ha => ⟨_, opAdd_of_valid (hbelow m hm ha).1 (hbelow m hm ha).2⟩) (operands_bind_of_invalid _ hbad)
  · exact commandFaults_of_lane hs hn rfl
      (fun m hm ha => ⟨_, opSub_of_valid (hbelow m hm ha).1 (hbelow m hm ha).2⟩) (operands_bind_of_invalid _ hbad)
  · have hstop := validateLanes_activeLanes hn hbelow hbad
    exact ⟨commandFaults_of_rule (i := .vcmpt rep va) (c := .operandInvalid) hs (ruleVcmpt_error (s := s.accept) hstop),
      commandFaults_of_rule (i := .upddone rep va) (c := .operandInvalid) hs (ruleUpddone_error (s := s.accept) hstop)⟩

end Sys2Proof.Machine
end

section
/-! PROOFS. The configuration latch (R353): no command but `CONSTRUCT` reads or writes a `CFG_*` register, or writes `FMT`,
`THRESH_MSL` or `VCOUNT`. Settled here: O29. -/

namespace Sys2Proof.Machine

/-! ### The `CFG_*` registers -/

/-- The state with other values in the four `CFG_*` registers (R56 to R59). -/
def State.withCfg (s : State) (b : BitVec 8) (f : BitVec 16) (th : Word) (n : BitVec 16) : State :=
  { s with cfgBbp := b, cfgFrac := f, cfgThresh := th, cfgVcount := n }

/-- Numbers that agree below L and in their sign write the same to a register (R149). -/
theorem State.writeSreg_congr (s : State) (r : SReg) {a b : Number} (hab : SameNumber s.format.l a b) :
    s.writeSreg r a = s.writeSreg r b := by
  rw [State.writeSreg, State.writeSreg, Number.overwrite_congr hab]

/-- Numbers that agree below L and in their sign write the same to a lane (R149). -/
theorem State.writeLane_congr (s : State) (v : VReg) (n : Nat) {a b : Number} (hab : SameNumber s.format.l a b) :
    s.writeLane v n a = s.writeLane v n b := by
  have hwrite : (Number.overwrite s.format.l · a) = (Number.overwrite s.format.l · b) :=
    funext (Number.overwrite_congr hab)
  rw [State.writeLane, State.writeLane, hwrite]

/-- Nothing but the rule of `CONSTRUCT` reads a `CFG_*` register, and no update writes one (R353). -/
theorem congruence_withCfg (b : BitVec 8) (f : BitVec 16) (th : Word) (n : BitVec 16) :
    Congruence fun s u => u = s.withCfg b f th n where
  faultV := by rintro s _ rfl; rfl
  configured := by rintro s _ rfl; rfl
  format := by rintro s _ rfl; rfl
  threshMsl := by rintro s _ rfl; rfl
  vcount := by rintro s _ rfl; rfl
  isActive := by rintro s _ rfl; rfl
  splitValue := by rintro s _ rfl; rfl
  sreg := by rintro s _ rfl - r; exact .refl _ _
  lane := by rintro s _ rfl - v m; exact .refl _ _
  drop := by rintro s _ rfl; rfl
  accept := by rintro s _ rfl; rfl
  faulted := by rintro s _ rfl w x; rfl
  plain := by rintro s _ rfl p; cases p <;> rfl
  writeSreg := by rintro s _ rfl r a c hac; rw [s.writeSreg_congr r hac]; rfl
  writeLane := by rintro s _ rfl v m a c hac; rw [s.writeLane_congr v m hac]; rfl

/-- A command other than `CONSTRUCT` does the same whatever the `CFG_*` registers hold, and leaves them as they are. -/
theorem exec_withCfg {i : Instr} (hi : i ≠ .construct) {s t : State} (h : exec i s = .next t) (b : BitVec 8)
    (f : BitVec 16) (th : Word) (n : BitVec 16) : exec i (s.withCfg b f th n) = .next (t.withCfg b f th n) := by
  obtain ⟨_, hu, rfl⟩ := (congruence_withCfg b f th n).exec hi rfl h
  exact hu

/-- A host write to a `CFG_*` register changes that register only (R56 to R59). -/
theorem serve_write_cfg (s : State) (v : Cell) :
    serve (host8 0x050 v) s = .next { s with cfgBbp := v.setWidth 8 } ∧
      serve (host8 0x058 v) s = .next { s with cfgFrac := v.setWidth 16 } ∧
      serve (host8 0x060 v) s = .next { s with cfgThresh := v.setWidth 32 } ∧
      serve (host8 0x068 v) s = .next { s with cfgVcount := v.setWidth 16 } :=
  ⟨serve_host8 0x050 v s rfl (by decide), serve_host8 0x058 v s rfl (by decide),
    serve_host8 0x060 v s rfl (by decide), serve_host8 0x068 v s rfl (by decide)⟩

/-! ### What `CONSTRUCT` latches -/

/-- `FMT`, `THRESH_MSL` and `VCOUNT`: what `CONSTRUCT` makes of the `CFG_*` registers (R160). -/
def State.latched (s : State) : (BitVec 8 × BitVec 16 × BitVec 8 × BitVec 16) × Cell × BitVec 16 :=
  ((s.fmtI, s.fmtF, s.fmtL, s.fmtT), s.threshMsl, s.vcount)

theorem State.latched_eq_iff (s t : State) :
    t.latched = s.latched ↔ t.fmtI = s.fmtI ∧ t.fmtF = s.fmtF ∧ t.fmtL = s.fmtL ∧ t.fmtT = s.fmtT ∧
      t.threshMsl = s.threshMsl ∧ t.vcount = s.vcount := by
  simp [State.latched, and_assoc]

theorem RuleWrite.latched_eq {i : Instr} {s t : State} (hc : i ≠ .construct) (h : RuleWrite i s t) :
    t.latched = s.latched := by
  cases h with
  | plain p => cases p <;> rfl
  | sreg | lane => rfl
  | configure e => exact absurd e hc

/-- No command but `CONSTRUCT` writes `FMT`, `THRESH_MSL` or `VCOUNT`. -/
theorem exec_latched {i : Instr} (hi : i ≠ .construct) {s t : State} (h : exec i s = .next t) :
    t.latched = s.latched :=
  exec_field_eq State.latched rfl (fun _ _ => rfl) rfl (fun _ _ => RuleWrite.latched_eq hi) h

/-! ### The settled statement -/

/-- Settles O29: the `CFG_*` registers from the congruence of `State.withCfg`, what is latched from the frame of every update. -/
theorem configurationLatch : Obligations.ConfigurationLatch := by
  intro i s t hi h
  exact ⟨fun b f n th => exec_withCfg hi h b f th n, serve_write_cfg s, (s.latched_eq_iff t).1 (exec_latched hi h)⟩

end Sys2Proof.Machine
end

section
/-! PROOFS. The encoder and the decoder are inverse to each other (R111 to R116), and so are the disassembler and the assembler
(R125); the pseudo-instructions expand by evaluation (R126). Settled here: O1, O2, O5. -/

namespace Sys2Proof.Machine

/-! ### The fields of an encoded word (R111) -/

/-- The fields of a word of format R, read back. -/
theorem fields_wordR {opc rep rd ra rb : Nat} (hopc : opc < 256) (hrep : rep < 2) (hrd : rd < 16) (hra : ra < 16)
    (hrb : rb < 16) : opcOf (wordR opc rep rd ra rb) = opc ∧ bits (wordR opc rep rd ra rb) 8 8 = rep ∧
      bits (wordR opc rep rd ra rb) 11 9 = 0 ∧ bits (wordR opc rep rd ra rb) 31 24 = 0 ∧
      rdOf (wordR opc rep rd ra rb) = rd ∧ raOf (wordR opc rep rd ra rb) = ra ∧ rbOf (wordR opc rep rd ra rb) = rb := by
  simp only [opcOf, rdOf, raOf, rbOf, bits, wordR, BitVec.toNat_ofNat]
  omega

/-- The fields of a word of format I, read back; the immediate is the field modulo 4096. -/
theorem fields_wordI {opc rep rd ra : Nat} (imm : Int) (hopc : opc < 256) (hrep : rep < 2) (hrd : rd < 16) (hra : ra < 16) :
    opcOf (wordI opc rep rd ra imm) = opc ∧ bits (wordI opc rep rd ra imm) 8 8 = rep ∧
      bits (wordI opc rep rd ra imm) 11 9 = 0 ∧ rdOf (wordI opc rep rd ra imm) = rd ∧
      raOf (wordI opc rep rd ra imm) = ra ∧ immOf (wordI opc rep rd ra imm) = (imm % 4096).toNat := by
  simp only [opcOf, rdOf, raOf, immOf, bits, wordI, BitVec.toNat_ofNat]
  omega

/-- REP is read back from its bit (R112). -/
theorem repOf_of_repBit {w : Word} {rep : Rep} (h : bits w 8 8 = repBit rep) : repOf w = rep := by
  cases rep <;> simp [repOf, h, repBit]

@[simp] theorem sreg_val (r : SReg) : sreg r.val = r := Fin.ofNat_val_eq_self r

/-- A signed immediate in its range is read back from its field (R114). -/
theorem sext12_emod {k : Int} (hk : SImmOk k) : sext12 (k % 4096).toNat = k := by
  unfold sext12
  split <;> omega

/-- A lane immediate in its range is read back from its field (R114). -/
theorem toNat_emod_of_laneImmOk {lane : Nat} (h : LaneImmOk lane) : ((lane : Int) % 4096).toNat = lane := by omega

/-- The decoder gives back what the arm of the opcode reads from the fields of a word of format R. -/
theorem decode_wordR {i : Instr} {opc rep rd ra rb : Nat} (hopc : opc < 256) (hrep : rep < 2) (hrd : rd < 16)
    (hra : ra < 16) (hrb : rb < 16)
    (harm : ∀ w, opcOf w = opc → bits w 8 8 = rep → bits w 31 24 = 0 → rdOf w = rd → raOf w = ra → rbOf w = rb →
      decodeOp w = .ok i) : decode (wordR opc rep rd ra rb) = .ok i := by
  obtain ⟨ho, hp, hlow, hhigh, hd, ha, hb⟩ := fields_wordR hopc hrep hrd hra hrb
  exact (decode_ok_iff _ _).2 ⟨hlow, harm _ ho hp hhigh hd ha hb⟩

/-- The decoder gives back what the arm of the opcode reads from the fields of a word of format I. -/
theorem decode_wordI {i : Instr} {opc rep rd ra : Nat} {imm : Int} (hopc : opc < 256) (hrep : rep < 2) (hrd : rd < 16)
    (hra : ra < 16)
    (harm : ∀ w, opcOf w = opc → bits w 8 8 = rep → rdOf w = rd → raOf w = ra → immOf w = (imm % 4096).toNat →
      decodeOp w = .ok i) : decode (wordI opc rep rd ra imm) = .ok i := by
  obtain ⟨ho, hp, hlow, hd, ha, hi⟩ := fields_wordI imm hopc hrep hrd hra
  exact (decode_ok_iff _ _).2 ⟨hlow, harm _ ho hp hd ha hi⟩

/-- The decoder reads every command back from its word. -/
theorem decode_encode {i : Instr} (h : WellFormed i) : decode (encode i) = .ok i := by
  cases i
  case ldi | muli | vmuli =>
    have hk := sext12_emod (of_decide_eq_true h)
    refine decode_wordI (by omega) (Laws.repBit_lt _) (by omega) (by omega) fun w ho hp hd ha hi => ?_
    simp [decodeOp, ho, hd, ha, hi, hk, repOf_of_repBit hp, bind_eq_ok_iff, zeroField_ok, vreg_ok]
  case vext | vins =>
    have hlane := toNat_emod_of_laneImmOk (of_decide_eq_true h)
    refine decode_wordI (by omega) (by omega) (by omega) (by omega) fun w ho hp hd ha hi => ?_
    simp [decodeOp, ho, hp, hd, ha, hi, hlane, bind_eq_ok_iff, noRep_ok, vreg_ok]
  case nop | construct | orst | mov | ldz | cmpm | totc | fromtc | limblen | tzlimb | vmov | vldz | vbcast =>
    refine decode_wordR (by omega) (by omega) (by omega) (by omega) (by omega) fun w ho hp hhigh hd ha hb => ?_
    simp [decodeOp, ho, hp, hhigh, hd, ha, hb, bind_eq_ok_iff, formatR_ok, noRep_ok, zeroField_ok, vreg_ok]
  all_goals
    refine decode_wordR (by omega) (Laws.repBit_lt _) (by omega) (by omega) (by omega) fun w ho hp hhigh hd ha hb => ?_
    simp [decodeOp, ho, repOf_of_repBit hp, hhigh, hd, ha, hb, bind_eq_ok_iff, formatR_ok, zeroField_ok, vreg_ok]

/-! ### Decoded commands are well formed (R114) -/

theorem sImmOk_sext12_immOf (w : Word) : SImmOk (sext12 (immOf w)) := by
  have hlt := immOf_lt w
  unfold sext12
  split <;> omega

/-- The decoder gives only immediates that fit their fields. -/
theorem wellFormed_of_decode {w : Word} {i : Instr} (h : decode w = .ok i) : WellFormed i := by
  obtain ⟨-, harm⟩ := (decode_ok_iff w i).mp h
  have himm : decide (SImmOk (sext12 (immOf w))) = true := decide_eq_true (sImmOk_sext12_immOf w)
  have hlane : decide (LaneImmOk (immOf w)) = true := decide_eq_true (Nat.le_of_lt_succ (immOf_lt w))
  revert harm
  unfold decodeOp
  split
  case h_34 => simp
  all_goals
    simp only [bind_eq_ok_iff, Except.ok.injEq, forall_exists_index, and_imp]
    intros
    subst i
    simp only [WellFormed, wellFormed, himm, hlane]

/-! ### The assembler (R125, R126) -/

@[simp] theorem sreg?_asmS (r : SReg) : (asmS r).sreg? = some r := by simp [asmS, AsmOperand.sreg?]

@[simp] theorem vreg?_asmV (v : VReg) : (asmV v).vreg? = some v := by simp [asmV, AsmOperand.vreg?]

theorem simm?_imm {k : Int} (hk : SImmOk k) : (AsmOperand.imm k).simm? = some k := if_pos hk

theorem lane?_imm {lane : Nat} (h : LaneImmOk lane) : (AsmOperand.imm lane).lane? = some lane := by
  simp [AsmOperand.lane?, h]

/-- The line of a command assembles to it: each operand form reads back the operands the line was written with. -/
theorem assembleOne_disassemble {i : Instr} (h : WellFormed i) : assembleOne (disassemble i) = some i := by
  cases i
  case nop | construct | orst => rfl
  case ldi | muli | vmuli =>
    simp [disassemble, assembleOne, formSI, formSSI, formVVI, AsmLine.rep, simm?_imm (of_decide_eq_true h)]
  case vext | vins =>
    simp [disassemble, assembleOne, formSVL, formVSL, AsmLine.plain, lane?_imm (of_decide_eq_true h)]
  case mov | ldz | cmpm | totc | fromtc | limblen | tzlimb | vmov | vldz | vbcast =>
    simp [disassemble, assembleOne, AsmLine.plain, formS, formSS, formV, formVV, formVS]
  all_goals
    simp [disassemble, assembleOne, AsmLine.rep, formS, formSS, formSSS, formV, formVV, formVVV]

/-! ### The settled statements -/

/-- Settles O1: the fields of the encoder's word are the ones the arm of its opcode reads. -/
theorem decodeOfEncode : Obligations.DecodeOfEncode := fun _ => decode_encode

/-- Settles O2: a legal word is put together again from its fields. -/
theorem encodeOfDecode : Obligations.EncodeOfDecode := fun _ _ h => ⟨wellFormed_of_decode h, encode_of_decode h⟩

/-- Settles O5: the line of a command is read back, and each pseudo-instruction is the forms of its row. -/
theorem assemblerRoundTrip : Obligations.AssemblerRoundTrip := by
  refine ⟨fun i => assembleOne_disassemble, fun a => ?_, fun a => ?_, fun rep d a => ?_, fun rep d a => ?_,
    fun rep d a => ?_, fun rep d a => ?_⟩
  · simp [assemble, AsmLine.plain, formS, AsmOperand.sreg?]
  · simp [assemble, AsmLine.plain, formV, AsmOperand.vreg?]
  · simp [assemble, AsmLine.rep, formSSS, AsmOperand.sreg?]
  · simp [assemble, AsmLine.rep, formVVV, AsmOperand.vreg?]
  · simp [assemble, AsmLine.rep, formS, formSSS, AsmOperand.sreg?, Fin.ext_iff]
  · simp [assemble, AsmLine.rep, formV, formVVV, AsmOperand.vreg?, Fin.ext_iff]

end Sys2Proof.Machine
end

section
/-! PROOFS. The invariant (Safety.lean), part by part: the sizes of the state's parts, the configuration that `CONSTRUCT` makes,
the fault record and `STATUS.CMP`; with the in-play invariant of O23 every step keeps all of it. Settled here: O20, O21, O22. -/

namespace Sys2Proof.Machine

/-! ### Sizes (R31, R34, R38 to R41) -/

/-- A Number of `L_MAX` cells. -/
abbrev SizedNumber (p : Params) (a : Number) : Prop := a.cells.length = p.lMax

/-- A container of `VCAP` lanes of `L_MAX` cells. -/
abbrev SizedContainer (p : Params) (c : Container) : Prop := c.length = p.vcap ∧ ∀ a ∈ c, SizedNumber p a

/-- A lane changed to a Number of as many cells leaves a container its sizes. -/
theorem SizedContainer.modify {p : Params} {ns : Container} (h : SizedContainer p ns) (n : Nat) {g : Number → Number}
    (hg : ∀ a, (g a).cells.length = a.cells.length) : SizedContainer p (ns.modify n g) := by
  obtain ⟨hlen, hcells⟩ := h
  refine ⟨by simpa using hlen, fun a ha => ?_⟩
  obtain ⟨m, hm, rfl⟩ := List.getElem_of_mem ha
  have hold : SizedNumber p (ns[m]'(by simpa using hm)) := hcells _ (List.getElem_mem _)
  rw [SizedNumber, List.getElem_modify]
  split
  · rw [hg, hold]
  · exact hold

/-- Setting one entry of a vector changes what is read there only. -/
theorem forall_getElem_set {α : Type} {n : Nat} {P : α → Prop} {xs : Vector α n} (h : ∀ r : Fin n, P xs[r]) (q : Fin n)
    {x : α} (hx : P x) (r : Fin n) : P (xs.set q x)[r] := by
  by_cases hr : r = q
  · simpa [hr] using hx
  · have hne : (q : Nat) ≠ r := fun e => hr (Fin.ext e.symm)
    simpa [hne] using h r

theorem State.Shape.writeSreg {s : State} (h : s.Shape) (r : SReg) (a : Number) : (s.writeSreg r a).Shape := by
  obtain ⟨hs, hrest⟩ := h
  exact ⟨forall_getElem_set (P := SizedNumber s.params) hs r ((Number.length_overwrite _ _ a).trans (hs r)), hrest⟩

theorem State.Shape.writeLane {s : State} (h : s.Shape) (v : VReg) (n : Nat) (a : Number) : (s.writeLane v n a).Shape := by
  obtain ⟨hs, hv, hrest⟩ := h
  exact ⟨hs, forall_getElem_set (P := SizedContainer s.params) hv v
    (SizedContainer.modify (hv v) n fun b => Number.length_overwrite _ b a), hrest⟩

theorem State.Shape.plain {s : State} (h : s.Shape) (p : PlainWrite) : (p.apply s).Shape := by
  obtain ⟨hs, hv, hi, hd, he, hc⟩ := h
  cases p with
  | done n => exact ⟨hs, hv, hi, by simpa [PlainWrite.apply] using hd, he, hc⟩
  | newRun n =>
    exact ⟨hs, hv, by simp [PlainWrite.apply], by simp [PlainWrite.apply], by simp [PlainWrite.apply],
      by simp [PlainWrite.apply]⟩
  | pass n e =>
    refine ⟨hs, hv, hi, ?_, by simpa [PlainWrite.apply, State.passLane] using he,
      by simpa [PlainWrite.apply, State.passLane] using hc⟩
    simp only [PlainWrite.apply, State.passLane]
    split <;> simpa using hd
  | retireGroups => exact ⟨hs, hv, by simpa [PlainWrite.apply] using hi, hd, he, hc⟩
  | esc g => exact ⟨hs, hv, hi, hd, by simpa [PlainWrite.apply, State.mapEsc] using he, hc⟩
  | _ => exact ⟨hs, hv, hi, hd, he, hc⟩

theorem State.shape_configure (s : State) (i f l t th n : Nat) : (s.configure i f l t th n).Shape := by
  refine ⟨fun r => ?_, fun v => ?_, ?_, ?_, ?_, ?_⟩
  · rw [State.sregAt_configure]
    simp [Number.cleared, State.configure]
  · rw [State.vregAt_configure]
    simp +contextual [Number.cleared, State.configure, List.mem_replicate]
  all_goals simp [State.configure]

theorem RuleWrite.shape {i : Instr} {s t : State} (h : RuleWrite i s t) (hs : s.Shape) : t.Shape := by
  cases h with
  | plain p => exact hs.plain p
  | sreg r a => exact hs.writeSreg r a
  | lane v n a => exact hs.writeLane v n a
  | configure _ ib f l t th n => exact s.shape_configure ib f l t th n

theorem State.writeCsr_shape {s : State} (h : s.Shape) (c : Csr) (v : Cell) : (s.writeCsr c v).Shape := by
  cases c with
  | fault => simp only [State.writeCsr]; split <;> exact h
  | _ => exact h

theorem State.Shape.writeSlot {s : State} (h : s.Shape) (sl : Slot) (v : Cell) : (s.writeSlot sl v).Shape := by
  obtain ⟨hs, hv, hi, hd, he, hc⟩ := id h
  cases sl with
  | csr c => exact s.writeCsr_shape h c v
  | scalarCell r k =>
    refine ⟨forall_getElem_set (P := SizedNumber s.params) hs r ?_, hv, hi, hd, he, hc⟩
    simpa [SizedNumber, Number.setCell] using hs r
  | scalarSign r =>
    exact ⟨forall_getElem_set (P := SizedNumber s.params) hs r (hs r), hv, hi, hd, he, hc⟩
  | laneCell w k n =>
    have hlen : ∀ a : Number, (a.setCell k v).cells.length = a.cells.length := fun a => by simp [Number.setCell]
    exact ⟨hs, forall_getElem_set (P := SizedContainer s.params) hv w (SizedContainer.modify (hv w) n hlen), hi, hd, he, hc⟩
  | laneSign w n =>
    exact ⟨hs, forall_getElem_set (P := SizedContainer s.params) hv w
      (SizedContainer.modify (hv w) n fun _ => rfl), hi, hd, he, hc⟩
  | count n => exact ⟨hs, hv, hi, hd, he, by simpa [State.writeSlot] using hc⟩
  | _ => exact h

/-! ### The configuration (R9, R159 to R161) -/

/-- The configuration is what `CONSTRUCT` latched, the parameters and `STATUS.CONFIGURED`. -/
theorem State.ConfigOk.of_latched_eq {s t : State} (h : s.ConfigOk) (hp : t.params = s.params)
    (hc : t.configured = s.configured) (hl : t.latched = s.latched) : t.ConfigOk := by
  obtain ⟨hi, hf, hL, ht, hm, hv⟩ := (s.latched_eq_iff t).1 hl
  have hformat : t.format = s.format := by simp only [State.format, hp, hi, hf, hL, ht]
  simpa only [State.ConfigOk, hformat, hp, hc, hi, hf, hL, ht, hm, hv] using h

/-- What a completed `CONSTRUCT` has checked, and the configuration it puts in force (R160). -/
theorem ruleConstruct_checked {s t : State} (h : ruleConstruct s = .ok t) :
    (1 ≤ s.cfgBbp.toNat ∧ s.cfgBbp.toNat ≤ 32) ∧
    adjustedBits s.params.limbBits s.cfgBbp.toNat s.cfgFrac.toNat / s.params.limbBits ≤ s.params.lMax ∧
    s.cfgThresh.toNat < 2 ^ s.cfgBbp.toNat ∧
    (s.cfgVcount.toNat % 4 = 0 ∧ 4 ≤ s.cfgVcount.toNat ∧ s.cfgVcount.toNat ≤ s.params.vcap) ∧
    t = s.configure s.cfgBbp.toNat
      (adjustedBits s.params.limbBits s.cfgBbp.toNat s.cfgFrac.toNat - s.cfgBbp.toNat)
      (adjustedBits s.params.limbBits s.cfgBbp.toNat s.cfgFrac.toNat / s.params.limbBits)
      (adjustedBits s.params.limbBits s.cfgBbp.toNat s.cfgFrac.toNat) s.cfgThresh.toNat s.cfgVcount.toNat := by
  simp only [ruleConstruct] at h
  split_ifs at h with hi hl ht hn
  have hpos : 0 < 2 ^ s.cfgBbp.toNat := by positivity
  exact ⟨by omega, by omega, by omega, by omega, (Except.ok.inj h).symm⟩

/-- T is the least multiple of B that I and the fraction bits asked for fit (R159). -/
theorem adjustedBits_spec {b : Nat} (hb : 0 < b) (i fq : Nat) :
    ∃ l, adjustedBits b i fq = l * b ∧ i + fq ≤ l * b ∧ l * b < i + fq + b := by
  refine ⟨_, rfl, ?_⟩
  have hdiv := Nat.div_add_mod (i + fq + b - 1) b
  have hmod := Nat.mod_lt (i + fq + b - 1) hb
  rw [mul_comm] at hdiv
  omega

/-- The format, threshold and value count of R160 that a block with these parameters can put in force: what the fields of `FMT`,
`THRESH_MSL` and `VCOUNT` are made of. -/
structure Configurable (p : Params) (i f l t th n : Nat) : Prop where
  params : p.Legal
  bits : 1 ≤ i ∧ i ≤ 32
  limbs : 1 ≤ l ∧ l ≤ p.lMax
  total : t = l * p.limbBits
  fraction : f + i = t
  threshold : th < 2 ^ i
  lanes : n % 4 = 0 ∧ 4 ≤ n ∧ n ≤ p.vcap

section
variable {s : State} {i f l t th n : Nat} (h : Configurable s.params i f l t th n)
include h

/-- T is at most 63 limbs of 32 bits. -/
theorem Configurable.total_le : t ≤ 2016 := by
  obtain ⟨⟨hb, hlm, -⟩, -, hl, rfl, -⟩ := h
  calc l * s.params.limbBits ≤ 63 * 32 := Nat.mul_le_mul (by omega) (by omega)

theorem format_configure : (s.configure i f l t th n).format =
    { b := s.params.limbBits, i := i, f := f, l := l, t := t } := by
  have ht := h.total_le
  obtain ⟨⟨hb, hlm, -⟩, hi, hl, -, hf, -⟩ := h
  have hmod : ∀ {x w : Nat}, x < 2 ^ w → (BitVec.ofNat w x).toNat = x := fun hx => by
    rw [BitVec.toNat_ofNat, Nat.mod_eq_of_lt hx]
  have hI : (BitVec.ofNat 8 i).toNat = i := hmod (by omega)
  have hF : (BitVec.ofNat 16 f).toNat = f := hmod (by omega)
  have hL : (BitVec.ofNat 8 l).toNat = l := hmod (by omega)
  have hT : (BitVec.ofNat 16 t).toNat = t := hmod (by omega)
  simp only [State.format, State.configure, State.orchestratorReset_params, hI, hF, hL, hT]

theorem Configurable.format_legal : (s.configure i f l t th n).format.Legal := by
  rw [format_configure h]
  obtain ⟨⟨hb, hlm, -⟩, hi, hl, rfl, hf, -⟩ := h
  exact ⟨hb, hi, ⟨hl.1, hl.2.trans hlm.2⟩, rfl, hf⟩

/-- `THRESH_MSL` is a digit (R161). -/
theorem Configurable.thresholdMsl_lt : thresholdMsl s.params.limbBits l f th < 2 ^ s.params.limbBits := by
  obtain ⟨-, -, hl, rfl, hf, hth, -⟩ := h
  have hplaces : l * s.params.limbBits = s.params.limbBits * (l - 1) + s.params.limbBits := by
    obtain ⟨m, rfl⟩ := Nat.exists_eq_add_of_le' hl.1
    rw [Nat.add_sub_cancel]
    ring
  rw [thresholdMsl, Nat.div_lt_iff_lt_mul (by positivity), ← pow_add, add_comm, ← hplaces, ← hf, add_comm f, pow_add]
  exact Nat.mul_lt_mul_of_pos_right hth (by positivity)

theorem toNat_threshMsl_configure :
    (s.configure i f l t th n).threshMsl.toNat = thresholdMsl s.params.limbBits l f th := by
  have hlt := h.thresholdMsl_lt
  obtain ⟨⟨hb, -⟩, -⟩ := h
  have hfit : 2 ^ s.params.limbBits ≤ 2 ^ 64 := Nat.pow_le_pow_right two_pos (by omega)
  exact (BitVec.toNat_ofNat _ _).trans (Nat.mod_eq_of_lt (by omega))

theorem toNat_vcount_configure : (s.configure i f l t th n).vcount.toNat = n := by
  obtain ⟨⟨-, -, hcap⟩, -, -, -, -, -, hn⟩ := h
  exact (BitVec.toNat_ofNat _ _).trans (Nat.mod_eq_of_lt (by omega))

theorem Configurable.configOk : (s.configure i f l t th n).ConfigOk := by
  refine ⟨nofun, fun _ => ⟨h.format_legal, ?_, ?_, ?_⟩⟩
  · rw [format_configure h]
    exact h.limbs.2
  · rw [toNat_threshMsl_configure h]
    exact h.thresholdMsl_lt
  · rw [toNat_vcount_configure h]
    exact h.lanes

end

/-- A completed `CONSTRUCT` puts a configuration in force that the block can have (R160). -/
theorem exists_configurable_of_ruleConstruct {s t : State} (hp : s.params.Legal) (h : ruleConstruct s = .ok t) :
    ∃ i f l fb th n, Configurable s.params i f l fb th n ∧ t = s.configure i f l fb th n := by
  obtain ⟨hi, hl, hth, hn, rfl⟩ := ruleConstruct_checked h
  have hb : 0 < s.params.limbBits := by
    obtain ⟨hb, -⟩ := hp
    omega
  obtain ⟨l, hfb, hlow, -⟩ := adjustedBits_spec hb s.cfgBbp.toNat s.cfgFrac.toNat
  rw [hfb, Nat.mul_div_cancel _ hb] at hl ⊢
  have hlpos : 1 ≤ l := Nat.pos_of_ne_zero (by rintro rfl; omega)
  exact ⟨_, _, _, _, _, _, ⟨hp, hi, ⟨hlpos, hl⟩, rfl, by omega, hth, hn⟩, rfl⟩

/-! ### The fault record and `STATUS.CMP` (R55, R300, R54) -/

/-- A recorded fault has a cause of R300. -/
theorem State.faultOk_faulted (s : State) (w : Word) (r : Raised) : (s.faulted w r).FaultOk :=
  ⟨nofun, fun _ => r.cause.code_bounds⟩

theorem RuleWrite.faultOk {i : Instr} {s t : State} (h : RuleWrite i s t) (hs : s.FaultOk) : t.FaultOk := by
  rw [h.frame]
  exact hs

theorem cmpCode_ne_three (ma mb : Nat) : cmpCode ma mb ≠ 3 := by
  unfold cmpCode
  split_ifs <;> decide

/-- `STATUS.CMP` is 0, 1 or 2: `CMPM` writes a code, `CONSTRUCT` writes 0 and nothing else writes it (R45, R210). -/
theorem commandRule_cmp {i : Instr} {s t : State} (hs : s.cmp ≠ 3) (h : commandRule i s = .ok t) : t.cmp ≠ 3 := by
  by_cases hc : i = .construct
  · subst hc
    obtain ⟨_, _, _, _, _, _, rfl⟩ := ruleConstruct_ok h
    exact (by decide : (0 : BitVec 2) ≠ 3)
  by_cases hm : ∃ sa sb, i = .cmpm sa sb
  · obtain ⟨sa, sb, rfl⟩ := hm
    rw [ruleCmpm_ok h]
    exact cmpCode_ne_three _ _
  · push Not at hm
    exact (commandRule_writes h).keeps (fun _ _ hw hp => (hw.cmp_eq hc hm).trans_ne hp) hs

/-! ### The invariant of every step -/

theorem State.ConfigOk.ruleWrite {i : Instr} (hi : i ≠ .construct) {s t : State} (hw : RuleWrite i s t)
    (h : s.ConfigOk) : t.ConfigOk :=
  h.of_latched_eq hw.params_eq (hw.configured_eq hi) (hw.latched_eq hi)

theorem commandRule_configOk {i : Instr} {s t : State} (hp : s.params.Legal) (hs : s.ConfigOk)
    (h : commandRule i s = .ok t) : t.ConfigOk := by
  by_cases hi : i = .construct
  · subst hi
    obtain ⟨ib, f, l, fb, th, n, hcfg, rfl⟩ := exists_configurable_of_ruleConstruct hp h
    exact hcfg.configOk
  · exact (commandRule_writes h).keeps (fun _ _ => State.ConfigOk.ruleWrite hi) hs

theorem State.Inv.commandRule {i : Instr} {s t : State} (hs : s.Inv) (h : commandRule i s = .ok t) : t.Inv := by
  have hgroups := commandRule_groupsOk hs h
  obtain ⟨hp, hshape, hconf, hfault, -, hcmp⟩ := hs
  have hw := commandRule_writes h
  have hparams : t.params = s.params :=
    hw.keeps (P := fun t => t.params = s.params) (fun _ _ hr hs => hr.params_eq.trans hs) rfl
  exact ⟨hparams ▸ hp, hw.keeps (fun _ _ => RuleWrite.shape) hshape, commandRule_configOk hp hconf h,
    hw.keeps (fun _ _ => RuleWrite.faultOk) hfault, hgroups, commandRule_cmp hcmp h⟩

theorem State.Inv.faulted {s : State} (h : s.Inv) (w : Word) (r : Raised) : (s.faulted w r).Inv := by
  obtain ⟨hp, hshape, hconf, -, hgroups, hcmp⟩ := h
  exact ⟨hp, hshape, hconf, s.faultOk_faulted w r, hgroups, hcmp⟩

theorem State.Inv.drop {s : State} (h : s.Inv) : s.drop.Inv := h

/-- Every command keeps the invariant. -/
theorem State.Inv.exec {i : Instr} {s t : State} (hs : s.Inv) (h : exec i s = .next t) : t.Inv := by
  rcases exec_cases h with ⟨-, rfl⟩ | ⟨-, x, rfl⟩ | ⟨-, hr⟩
  · exact hs.drop
  · exact hs.faulted _ x
  · exact hs.accept.commandRule hr

theorem State.Inv.runWord {w : Word} {s t : State} (hs : s.Inv) (h : runWord w s = .next t) : t.Inv := by
  cases hd : decode w with
  | ok i => exact hs.exec (runWord_of_decode hd s ▸ h)
  | error e =>
    rw [runWord_of_illegal hd, runIllegal] at h
    split at h
    · cases h; exact hs.drop
    · cases h; exact hs.faulted _ _

/-- No slot of the window but `COMMAND` reaches what `CONSTRUCT` latched (R51). -/
theorem State.writeSlot_latched (s : State) (sl : Slot) (v : Cell) : (s.writeSlot sl v).latched = s.latched := by
  cases sl with
  | csr c =>
    cases c with
    | fault => simp only [State.writeSlot, State.writeCsr]; split <;> rfl
    | _ => rfl
  | _ => rfl

/-- The host's write to `FAULT` clears the whole record (R315). -/
theorem State.FaultOk.writeSlot {s : State} (h : s.FaultOk) (sl : Slot) (v : Cell) : (s.writeSlot sl v).FaultOk := by
  cases sl with
  | csr c =>
    cases c with
    | fault =>
      simp only [State.writeSlot, State.writeCsr]
      split
      · exact ⟨fun _ => ⟨rfl, rfl, rfl, rfl⟩, nofun⟩
      · exact h
    | _ => exact h
  | _ => exact h

theorem State.writeSlot_cmp (s : State) (sl : Slot) (v : Cell) : (s.writeSlot sl v).cmp = s.cmp := by
  cases sl with
  | csr c =>
    cases c with
    | fault => simp only [State.writeSlot, State.writeCsr]; split <;> rfl
    | _ => rfl
  | _ => rfl

theorem State.Inv.writeSlot {s : State} (h : s.Inv) (sl : Slot) (v : Cell) : (s.writeSlot sl v).Inv := by
  obtain ⟨hp, hshape, hconf, hfault, hgroups, hcmp⟩ := h
  have hparams := s.writeSlot_params sl v
  exact ⟨hparams ▸ hp, hshape.writeSlot sl v,
    hconf.of_latched_eq hparams (s.writeSlot_configured sl v) (s.writeSlot_latched sl v), hfault.writeSlot sl v,
    hgroups.writeSlot sl v, (s.writeSlot_cmp sl v).trans_ne hcmp⟩

/-- The state after reset meets the invariant, whatever the parameters (R340). -/
theorem inv_resetWith {p : Params} (hp : p.Legal) : (State.resetWith p).Inv := by
  refine ⟨hp, ⟨fun r => ?_, fun v => ?_, ?_, ?_, ?_, ?_⟩, ⟨fun _ => ⟨rfl, rfl, rfl, rfl, rfl, rfl⟩, nofun⟩,
    ⟨fun _ => ⟨rfl, rfl, rfl, rfl⟩, nofun⟩, groupsOk_resetWith p, by simp [State.resetWith]⟩
  · simp [State.resetWith, State.sregAt, Number.atReset]
  · simp +contextual [State.resetWith, State.vregAt, Number.atReset, List.mem_replicate]
  all_goals simp [State.resetWith]

theorem State.Inv.serve {e : HostEvent} {s t : State} (hs : s.Inv) (h : serve e s = .next t) : t.Inv := by
  cases e with
  | read o n =>
    cases h
    unfold hostRead
    split <;> exact hs
  | write o data =>
    rcases hostWrite_cases h with ⟨-, w, hw⟩ | ⟨-, v, rfl⟩ | rfl
    · exact hs.runWord hw
    · exact hs.writeSlot _ v
    · exact hs
  | reset => cases h; exact inv_resetWith hs.1

theorem State.Inv.step {s t : State} (hs : s.Inv) (h : step s = .next t) : t.Inv := by
  cases hh : s.host with
  | nil => simp [Machine.step, hh] at h
  | cons e rest =>
    rw [step_cons hh] at h
    exact State.Inv.serve (s := { s with host := rest }) hs h

/-! ### The settled statements -/

/-- Settles O22: each part of the invariant is kept by dropping, faulting, every update of a rule and every host access. -/
theorem stepKeepsInvariant : Obligations.StepKeepsInvariant := fun _ _ => State.Inv.step

/-- Settles O21: the reset state has the sizes of its parameters, and no format, fault, group in play or compare result. -/
theorem resetMeetsInvariant : Obligations.ResetMeetsInvariant :=
  ⟨fun _ => inv_resetWith, inv_resetWith (by decide)⟩

/-- A list of 0 flags has no flag. -/
theorem getD_replicate_false (n m : Nat) : (List.replicate n false).getD m false = false := by
  simp only [List.getD_eq_getElem?_getD, List.getElem?_replicate]
  split <;> rfl

/-- Settles O20: the reset input is the state after reset with the block's parameters and the host's later moves. -/
theorem resetValues : Obligations.ResetValues := by
  intro s hp rest hh
  have hstep : step s = .next { State.resetWith s.params with host := rest } := by rw [step_cons hh]; rfl
  refine ⟨_, hstep, rfl, rfl, ?_, ?_, rfl, rfl, getD_replicate_false _, getD_replicate_false _, getD_replicate_false _, ?_⟩
  · intro c hc
    fin_cases hc <;> simp [State.readCsr, State.resetWith]
  · simp [State.readCsr, State.statusWord, State.ipempty, State.dsum, State.irq, State.resetWith]
  · simp [State.irq, State.resetWith]

end Sys2Proof.Machine
end

section
/-! PROOFS. The host port (R81, R82, R90) and the control registers behind it (R50 to R68): every move has a next state, an
access that breaks R81 only sets `STATUS.BUSERR`, and what each control register reads and takes. Settled here: O7, O10, O14,
O19, O36. -/

namespace Sys2Proof.Machine

/-! ### Every move has a next state -/

theorem exec_next (i : Instr) (s : State) : ∃ t, exec i s = .next t := by
  rw [exec_eq_runCommand]
  exact runCommand_next _ _ _ s

theorem runWord_next (w : Word) (s : State) : ∃ t, runWord w s = .next t := by
  cases hd : decode w with
  | ok i =>
    rw [runWord_of_decode hd]
    exact exec_next i s
  | error e =>
    rw [runWord_of_illegal hd, runIllegal]
    split <;> exact ⟨_, rfl⟩

theorem serve_next (e : HostEvent) (s : State) : ∃ t, serve e s = .next t := by
  cases e with
  | read | reset => exact ⟨_, rfl⟩
  | write o data =>
    simp only [serve, hostWrite]
    split_ifs
    · exact runWord_next _ s
    · exact ⟨_, rfl⟩
    · exact ⟨_, rfl⟩

theorem step_next {s : State} (h : s.host ≠ []) : ∃ t, step s = .next t := by
  obtain ⟨e, rest, hs⟩ := List.exists_cons_of_ne_nil h
  rw [step_cons hs]
  exact serve_next e _

/-- Settles O7: a command is no stop, and neither is a move of the host. -/
theorem nothingStopsTheBlock : Obligations.NothingStopsTheBlock :=
  ⟨exec_next, fun _ => step_next, fun s h => by simp [step, h]⟩

/-! ### Commands under a fault (R315, R316) -/

theorem exec_of_faultV (i : Instr) {s : State} (h : s.faultV = true) : exec i s = .next s.drop := by
  simp [exec_eq_runCommand, runCommand, h]

theorem runWord_of_faultV (w : Word) {s : State} (h : s.faultV = true) : runWord w s = .next s.drop := by
  cases hd : decode w with
  | ok i => rw [runWord_of_decode hd, exec_of_faultV i h]
  | error e => simp [runWord_of_illegal hd, runIllegal, h]

/-- The host's write of `FAULT` clears the record when bit 8 is 1 (R55, R315). -/
theorem serve_write_fault (v : Cell) (s : State) :
    serve (host8 0x018 v) s = .next (if v.getLsbD 8 then s.clearFault else s) :=
  serve_host8 0x018 v s rfl (by decide)

/-- Settles O10: under a fault the procedure of R310 drops every word, and bit 8 of a `FAULT` write clears the record. -/
theorem droppedUntilCleared : Obligations.DroppedUntilCleared := by
  refine ⟨fun w s h => runWord_of_faultV w h, fun i s h => exec_of_faultV i h, fun v s h => ?_, fun v s h => ?_⟩
  · rw [serve_write_fault, if_pos h]
    rfl
  · rw [serve_write_fault, if_neg (Bool.not_eq_true _ ▸ h)]

/-! ### Accesses that break R81 -/

theorem accessOk_eq_false {o : BitVec 23} {width : Nat} (h : width ≠ 8 ∨ o.toNat % 8 ≠ 0) : accessOk o width = false := by
  simpa only [accessOk, Bool.and_eq_false_iff, beq_eq_false_iff_ne] using h

/-- Settles O14: the access is refused before it reaches a slot. -/
theorem badAccessSetsBusError : Obligations.BadAccessSetsBusError := by
  refine fun o s => ⟨fun width h => ?_, fun data h => ?_⟩
  · simp [serve, hostRead, accessOk_eq_false h, State.busError]
  · simp [serve, hostWrite, accessOk_eq_false h, State.busError]

/-! ### Reading a slot -/

/-- An aligned read of 8 bytes returns the value of the slot at the offset (R82). -/
theorem hostReads_slot (s : State) {o : Nat} (ho : o < 2 ^ 23) (ha : o % 8 = 0) :
    HostReads s o (s.readSlot (slotOf s.params o)) := by
  have htoNat : (BitVec.ofNat 23 o).toNat = o := by rw [BitVec.toNat_ofNat, Nat.mod_eq_of_lt ho]
  rw [HostReads, serve_read8 _ _ (by rw [htoNat]; exact ha), htoNat]

/-- 8 bytes tell which cell they are of (R82). -/
theorem leBytes_injective {v w : Cell} (h : leBytes 8 v.toNat = leBytes 8 w.toNat) : v = w := by
  rw [← ofNat_leValue_leBytes v, h, ofNat_leValue_leBytes]

theorem hostReads_iff (s : State) {o : Nat} (ho : o < 2 ^ 23) (ha : o % 8 = 0) (v : Cell) :
    HostReads s o v ↔ s.readSlot (slotOf s.params o) = v := by
  have hread := hostReads_slot s ho ha
  refine ⟨fun h => ?_, fun h => h ▸ hread⟩
  have hsame := Host.Outcome.next.inj (hread.symm.trans h)
  exact leBytes_injective (congrArg State.hostData hsame)

/-! ### `STATUS` (R54, R320) -/

/-- No group is in play exactly when no `INPLAY` flag reads 1. -/
theorem State.ipempty_iff (s : State) : s.ipempty = true ↔ ∀ g, s.inplayAt g = false := by
  simp only [State.ipempty, List.all_eq_true, Bool.not_eq_true', State.inplayAt]
  constructor
  · intro h g
    by_cases hg : g < s.inplay.length
    · rw [List.getD_eq_getElem _ _ hg]
      exact h _ (List.getElem_mem hg)
    · exact List.getD_eq_default _ _ (not_lt.1 hg)
  · intro h p hp
    obtain ⟨g, hg, rfl⟩ := List.getElem_of_mem hp
    rw [← h g, List.getD_eq_getElem _ _ hg]

theorem State.noLaneDone_iff (s : State) : ((List.range s.vcount.toNat).all fun n => !s.doneAt n) = true ↔
    ∀ n, n < s.vcount.toNat → s.doneAt n = false := by
  simp

theorem State.allLanesDone_iff (s : State) : (List.range s.vcount.toNat).all s.doneAt = true ↔
    ∀ n, n < s.vcount.toNat → s.doneAt n = true := by
  simp

theorem State.dsum_eq_zero_iff (s : State) : s.dsum = 0 ↔ ∀ n, n < s.vcount.toNat → s.doneAt n = false := by
  rw [← s.noLaneDone_iff, State.dsum]
  split_ifs with hnone
  · exact iff_of_true rfl hnone
  · exact iff_of_false (by decide) hnone
  · exact iff_of_false (by decide) hnone

theorem State.dsum_eq_two_iff (s : State) :
    s.dsum = 2 ↔ 0 < s.vcount.toNat ∧ ∀ n, n < s.vcount.toNat → s.doneAt n = true := by
  rw [← s.allLanesDone_iff, State.dsum]
  by_cases hnone : ((List.range s.vcount.toNat).all fun n => !s.doneAt n) = true
  · rw [if_pos hnone]
    rw [s.noLaneDone_iff] at hnone
    refine iff_of_false (by decide) fun ⟨hpos, hall⟩ => ?_
    rw [s.allLanesDone_iff] at hall
    exact Bool.false_ne_true ((hnone 0 hpos).symm.trans (hall 0 hpos))
  · rw [if_neg hnone]
    have hpos : 0 < s.vcount.toNat := Nat.pos_of_ne_zero fun h0 => hnone (by simp [h0])
    split_ifs with hall <;> simp [hall, hpos]

theorem State.dsum_le_two (s : State) : s.dsum ≤ 2 := by
  unfold State.dsum
  split_ifs <;> decide

/-- The fields of `STATUS` at their bits (R54). -/
theorem statusWord_fields (s : State) : let st := s.statusWord.toNat
    st % 2 = s.configured.toNat ∧ st / 2 % 2 = s.faultV.toNat ∧ st / 2 ^ 2 % 2 = s.ge.toNat ∧
      st / 2 ^ 3 % 4 = s.cmp.toNat ∧ st / 2 ^ 5 % 2 = s.valid.toNat ∧ st / 2 ^ 6 % 2 = s.ipempty.toNat ∧
      st / 2 ^ 7 % 4 = s.dsum ∧ st / 2 ^ 9 % 2 = s.dropped.toNat ∧ st / 2 ^ 10 % 2 = s.buserr.toNat ∧
      st / 2 ^ 11 = s.irq.toNat := by
  have hconf := Bool.toNat_le s.configured
  have hfault := Bool.toNat_le s.faultV
  have hge := Bool.toNat_le s.ge
  have hcmp : s.cmp.toNat < 4 := s.cmp.isLt
  have hvalid := Bool.toNat_le s.valid
  have hempty := Bool.toNat_le s.ipempty
  have hdsum := s.dsum_le_two
  have hdrop := Bool.toNat_le s.dropped
  have hbus := Bool.toNat_le s.buserr
  have hirq := Bool.toNat_le s.irq
  simp only [State.statusWord, BitVec.toNat_ofNat]
  omega

/-- Settles O19: the derived fields from their definitions, and the word's fields do not overlap. -/
theorem statusAndInterrupt : Obligations.StatusAndInterrupt := fun s =>
  ⟨rfl, s.ipempty_iff, s.dsum_eq_zero_iff, s.dsum_eq_two_iff, s.dsum_le_two,
    ⟨s.statusWord, hostReads_slot s (o := 0x010) (by decide) (by decide), statusWord_fields s⟩,
    fun v => serve_host8 0x010 v s rfl (by decide)⟩

/-! ### The other control registers (R50 to R68) -/

/-- The registers that take a write without any other effect. -/
theorem serve_write_csr (s : State) (v : Cell) :
    serve (host8 0x008 v) s = .next { s with fie := v.getLsbD 0, die := v.getLsbD 1 } ∧
      serve (host8 0x070 v) s = .next { s with target := v.setWidth 16 } ∧
      serve (host8 0x090 v) s = .next { s with acarry := v.setWidth 32 } ∧
      serve (host8 0x098 v) s = .next { s with mcarry := v.setWidth 32 } ∧
      serve (host8 0x0A0 v) s = .next { s with rawExp := v.setWidth 32 } ∧
      serve (host8 0x0A8 v) s = .next { s with rawSign := v.getLsbD 0 } :=
  ⟨serve_host8 0x008 v s rfl (by decide), serve_host8 0x070 v s rfl (by decide), serve_host8 0x090 v s rfl (by decide),
    serve_host8 0x098 v s rfl (by decide), serve_host8 0x0A0 v s rfl (by decide), serve_host8 0x0A8 v s rfl (by decide)⟩

/-- The read-only registers ignore a write (R51). -/
theorem serve_write_readOnly (s : State) (v : Cell) :
    ∀ o ∈ [(0x000 : BitVec 23), 0x020, 0x028, 0x030, 0x048, 0x078, 0x080, 0x088], serve (host8 o v) s = .next s := by
  simp only [List.forall_mem_cons]
  exact ⟨serve_host8 0x000 v s rfl (by decide), serve_host8 0x020 v s rfl (by decide), serve_host8 0x028 v s rfl (by decide),
    serve_host8 0x030 v s rfl (by decide), serve_host8 0x048 v s rfl (by decide), serve_host8 0x078 v s rfl (by decide),
    serve_host8 0x080 v s rfl (by decide), serve_host8 0x088 v s rfl (by decide), nofun⟩

/-- `CTRL` as a number (R53). -/
theorem toNat_readCsr_ctrl (s : State) : (s.readCsr .ctrl).toNat = s.fie.toNat + 2 * s.die.toNat := by
  have hfie := Bool.toNat_le s.fie
  have hdie := Bool.toNat_le s.die
  simp only [State.readCsr, BitVec.toNat_ofNat]
  omega

/-- `FAULT` as a number (R55). -/
theorem toNat_readCsr_fault (s : State) : (s.readCsr .fault).toNat = s.faultCause.toNat + 2 ^ 8 * s.faultV.toNat := by
  have hcause := s.faultCause.isLt
  have hv := Bool.toNat_le s.faultV
  simp only [State.readCsr, BitVec.toNat_ofNat]
  omega

/-- The fields of `FMT` at their bits (R61). -/
theorem readCsr_fmt_fields (s : State) : let x := (s.readCsr .fmt).toNat
    x % 2 ^ 8 = s.fmtI.toNat ∧ x / 2 ^ 8 % 2 ^ 16 = s.fmtF.toNat ∧ x / 2 ^ 24 % 2 ^ 8 = s.fmtL.toNat ∧
      x / 2 ^ 32 = s.fmtT.toNat := by
  have hi := s.fmtI.isLt
  have hf := s.fmtF.isLt
  have hl := s.fmtL.isLt
  have ht := s.fmtT.isLt
  simp only [State.readCsr, BitVec.toNat_ofNat]
  omega

/-- Settles O36: each offset names its register, whose fields fit the slot. -/
theorem controlRegisterAccess : Obligations.ControlRegisterAccess := by
  intro s
  have hreads : ∀ o, o < 2 ^ 23 → o % 8 = 0 → HostReads s o (s.readSlot (slotOf s.params o)) := fun o => hostReads_slot s
  refine ⟨serve_write_csr s, fun o ho v => serve_write_readOnly s v o ho,
    ⟨_, hreads 0x008 (by decide) (by decide), toNat_readCsr_ctrl s⟩,
    ⟨_, hreads 0x018 (by decide) (by decide), toNat_readCsr_fault s⟩, ?_, ?_,
    hreads 0x050 (by decide) (by decide), hreads 0x080 (by decide) (by decide),
    ⟨_, hreads 0x078 (by decide) (by decide), readCsr_fmt_fields s⟩,
    ⟨_, hreads 0x0A0 (by decide) (by decide), BitVec.toInt_signExtend_of_le (by decide)⟩,
    ⟨_, hreads 0x0A8 (by decide) (by decide), ?_⟩⟩
  · simp only [List.forall_mem_cons]
    exact ⟨hreads 0x020 (by decide) (by decide), hreads 0x028 (by decide) (by decide), hreads 0x030 (by decide) (by decide),
      hreads 0x048 (by decide) (by decide), hreads 0x060 (by decide) (by decide), hreads 0x090 (by decide) (by decide),
      hreads 0x098 (by decide) (by decide), nofun⟩
  · simp only [List.forall_mem_cons]
    exact ⟨hreads 0x058 (by decide) (by decide), hreads 0x068 (by decide) (by decide), hreads 0x070 (by decide) (by decide),
      hreads 0x088 (by decide) (by decide), nofun⟩
  · show (BitVec.ofNat 64 s.rawSign.toNat).toNat = s.rawSign.toNat
    have hsign := Bool.toNat_le s.rawSign
    rw [BitVec.toNat_ofNat]
    omega

end Sys2Proof.Machine
end

section
/-! PROOFS. The data slots of the window (R83 to R87): which offset names which slot, that no other offset names it, and what a
slot reads after a write to it or to another one. Settled here: O16. -/

namespace Sys2Proof.Machine

/-! ### Offsets and slots -/

theorem slotOf_raw (p : Params) (w : Fin 64) : slotOf p (0x1000 + 8 * w.val) = .raw w := by
  have hidx : (0x1000 + 8 * w.val - 0x1000) / 8 = w.val := by omega
  simp (disch := omega) only [slotOf, if_neg, if_pos, hidx, Fin.ofNat_val_eq_self]

theorem slotOf_doneWord (p : Params) {w : Nat} (hw : w < 16) : slotOf p (0x6000 + 8 * w) = .doneWord w := by
  have hidx : (0x6000 + 8 * w - 0x6000) / 8 = w := by omega
  simp (disch := omega) only [slotOf, if_neg, if_pos, hidx]

theorem slotOf_escWord (p : Params) {w : Nat} (hw : w < 16) : slotOf p (0x6100 + 8 * w) = .escWord w := by
  have hidx : (0x6100 + 8 * w - 0x6100) / 8 = w := by omega
  simp (disch := omega) only [slotOf, if_neg, if_pos, hidx]

theorem slotOf_inplayWord (p : Params) {w : Nat} (hw : w < 4) : slotOf p (0x6200 + 8 * w) = .inplayWord w := by
  have hidx : (0x6200 + 8 * w - 0x6200) / 8 = w := by omega
  simp (disch := omega) only [slotOf, if_neg, if_pos, hidx]

section
variable {p : Params}

theorem slotOf_scalarCell {k : Nat} (hp : p.Legal) (r : SReg) (hk : k < p.lMax) :
    slotOf p (0x2000 + 0x200 * r.val + 8 * k) = .scalarCell r k := by
  obtain ⟨-, hl, -⟩ := hp
  rw [slotOf_scalar p r.isLt (by omega), scalarSlot, if_pos hk, Fin.ofNat_val_eq_self]

theorem slotOf_scalarSign (hp : p.Legal) (r : SReg) : slotOf p (0x2000 + 0x200 * r.val + 8 * 63) = .scalarSign r := by
  obtain ⟨-, hl, -⟩ := hp
  rw [slotOf_scalar p r.isLt (by omega), scalarSlot, if_neg (by omega), if_pos rfl, Fin.ofNat_val_eq_self]

theorem slotOf_laneCell {k n : Nat} (hp : p.Legal) (v : VReg) (hk : k < p.lMax) (hn : n < p.vcap) :
    slotOf p (0x100000 + 0x80000 * v.val + 0x2000 * k + 8 * n) = .laneCell v k n := by
  obtain ⟨-, hl, hc⟩ := hp
  rw [slotOf_lane p v.isLt (by omega) (by omega), laneSlot, if_pos hn, if_pos hk, Fin.ofNat_val_eq_self]

theorem slotOf_laneSign {n : Nat} (hp : p.Legal) (v : VReg) (hn : n < p.vcap) :
    slotOf p (0x100000 + 0x80000 * v.val + 0x2000 * 63 + 8 * n) = .laneSign v n := by
  obtain ⟨-, hl, hc⟩ := hp
  rw [slotOf_lane p v.isLt (by omega) (by omega), laneSlot, if_pos hn, if_neg (by omega), if_pos rfl, Fin.ofNat_val_eq_self]

theorem slotOf_countSlot {n : Nat} (hp : p.Legal) (hn : n < p.vcap) : slotOf p (0x4000 + 8 * n) = .count n := by
  obtain ⟨-, -, hc⟩ := hp
  rw [slotOf_count p (by omega), if_pos hn]

end

/-- The offset of a slot that holds data (R84 to R87); none for the other slots. -/
def Slot.dataOffset : Slot → Option Nat
  | .raw w => some (0x1000 + 8 * w)
  | .scalarCell r k => some (0x2000 + 0x200 * r + 8 * k)
  | .scalarSign r => some (0x2000 + 0x200 * r + 8 * 63)
  | .count n => some (0x4000 + 8 * n)
  | .laneCell v k n => some (0x100000 + 0x80000 * v + 0x2000 * k + 8 * n)
  | .laneSign v n => some (0x100000 + 0x80000 * v + 0x2000 * 63 + 8 * n)
  | .csr _ | .doneWord _ | .escWord _ | .inplayWord _ | .reserved => none

@[simp] theorem dataOffset_raw (w : Fin 64) : (Slot.raw w).dataOffset = some (0x1000 + 8 * w.val) := rfl
@[simp] theorem dataOffset_count (n : Nat) : (Slot.count n).dataOffset = some (0x4000 + 8 * n) := rfl
@[simp] theorem dataOffset_csr (c : Csr) : (Slot.csr c).dataOffset = none := rfl
@[simp] theorem dataOffset_doneWord (w : Nat) : (Slot.doneWord w).dataOffset = none := rfl
@[simp] theorem dataOffset_escWord (w : Nat) : (Slot.escWord w).dataOffset = none := rfl
@[simp] theorem dataOffset_inplayWord (w : Nat) : (Slot.inplayWord w).dataOffset = none := rfl
@[simp] theorem dataOffset_reserved : Slot.reserved.dataOffset = none := rfl

@[simp] theorem dataOffset_csrOf (n : Nat) : (csrOf n).dataOffset = none := by
  unfold csrOf
  split <;> rfl

theorem dataOffset_scalarSlot {p : Params} {r k o : Nat} (hr : r < 16) (h : (scalarSlot p r k).dataOffset = some o) :
    o = 0x2000 + 0x200 * r + 8 * k := by
  unfold scalarSlot at h
  split_ifs at h <;> simp only [Slot.dataOffset, Option.some.injEq, reduceCtorEq, Fin.ofNat] at h <;> omega

theorem dataOffset_laneSlot {p : Params} {v k n o : Nat} (hv : v < 8) (h : (laneSlot p v k n).dataOffset = some o) :
    o = 0x100000 + 0x80000 * v + 0x2000 * k + 8 * n := by
  unfold laneSlot at h
  split_ifs at h <;> simp only [Slot.dataOffset, Option.some.injEq, reduceCtorEq, Fin.ofNat] at h <;> omega

/-- A data slot is named by its own offset only. -/
theorem offset_eq_of_dataOffset {p : Params} {o d : Nat} (ha : o % 8 = 0) (h : (slotOf p o).dataOffset = some d) :
    d = o := by
  simp only [slotOf, apply_ite Slot.dataOffset, dataOffset_csrOf, dataOffset_raw, dataOffset_count, dataOffset_doneWord,
    dataOffset_escWord, dataOffset_inplayWord, dataOffset_reserved, ite_eq_iff, Option.some.injEq, reduceCtorEq, Fin.ofNat,
    and_false, or_false, false_or] at h
  obtain ⟨hcsr, ⟨hraw, h⟩ | ⟨hraw, hgap, ⟨hscalar, h⟩ | ⟨hscalar, h⟩⟩⟩ := h
  · omega
  · have := dataOffset_scalarSlot (by omega) h
    omega
  · rcases h with ⟨hcount, -, h⟩ | ⟨hcount, -, -, -, -, -, hlow, hhigh, h⟩
    · omega
    · have := dataOffset_laneSlot (by omega) h
      omega

/-! ### Flag words (R85) -/

/-- A sum of bits has the bits it is the sum of. -/
theorem testBit_sumBelow (b : Nat → Bool) (n j : Nat) :
    (sumBelow n fun k => (b k).toNat * 2 ^ k).testBit j = (decide (j < n) && b j) := by
  induction n with
  | zero => simp
  | succ n ih =>
    have hlt : sumBelow n (fun k => (b k).toNat * 2 ^ k) < 2 ^ n := by
      simpa using sumBelow_digits_lt (b := 1) (n := n) (g := fun k => (b k).toNat) fun k _ => Bool.toNat_lt _
    rw [sumBelow_succ, add_comm, mul_comm, Nat.testBit_two_pow_mul_add _ hlt, ih]
    by_cases hj : j < n
    · simp [hj, Nat.lt_succ_of_lt hj]
    · by_cases he : j = n
      · subst he
        cases b j <;> simp
      · have hbig : ¬ j < n + 1 := by omega
        have hbit : Nat.testBit 1 (j - n) = false := Nat.testBit_lt_two_pow (Nat.one_lt_two_pow (by omega))
        cases b n <;> simp [hj, hbig, hbit]

/-- Bit j of a flag word is its flag (R85). -/
theorem getLsbD_flagWord (fs : List Bool) (w : Nat) {j : Nat} (hj : j < 64) :
    (flagWord fs w).getLsbD j = fs.getD (64 * w + j) false := by
  rw [flagWord, BitVec.getLsbD_ofNat, testBit_sumBelow fun j => fs.getD (64 * w + j) false]
  simp [hj]

/-- A flag past the end of its list reads 0. -/
theorem getD_eq_and_of_length {fs : List Bool} {n : Nat} (h : fs.length = n) (m : Nat) :
    fs.getD m false = (decide (m < n) && fs.getD m false) := by
  by_cases hm : m < n
  · simp [hm]
  · rw [List.getD_eq_default _ _ (by omega), Bool.and_false]

/-! ### Reading after a write -/

/-- A register changed in place (R84). -/
def State.modifySreg (s : State) (r : SReg) (a : Number) : State := { s with sregs := s.sregs.set r a }

/-- A lane changed in place (R86). -/
def State.modifyLane (s : State) (v : VReg) (n : Nat) (g : Number → Number) : State :=
  { s with vregs := s.vregs.set v ((s.vregAt v).modify n g) }

theorem State.writeSlot_scalarCell (s : State) (r : SReg) (k : Nat) (x : Cell) :
    s.writeSlot (.scalarCell r k) x = s.modifySreg r ((s.sregAt r).setCell k x) := rfl

theorem State.writeSlot_scalarSign (s : State) (r : SReg) (x : Cell) :
    s.writeSlot (.scalarSign r) x = s.modifySreg r ((s.sregAt r).setSign x) := rfl

theorem State.writeSlot_laneCell (s : State) (v : VReg) (k n : Nat) (x : Cell) :
    s.writeSlot (.laneCell v k n) x = s.modifyLane v n (·.setCell k x) := rfl

theorem State.writeSlot_laneSign (s : State) (v : VReg) (n : Nat) (x : Cell) :
    s.writeSlot (.laneSign v n) x = s.modifyLane v n (·.setSign x) := rfl

theorem State.sregAt_modifySreg (s : State) (r q : SReg) (a : Number) :
    (s.modifySreg r a).sregAt q = if q = r then a else s.sregAt q := by
  split_ifs with hq
  · simp [hq, State.modifySreg, State.sregAt]
  · have hne : (r : Nat) ≠ q := fun e => hq (Fin.ext e.symm)
    simp [State.modifySreg, State.sregAt, hne]

/-- A lane that is there is changed; every other lane, and every other container, is as it was. -/
theorem State.laneAt_modifyLane (s : State) (v q : VReg) {n : Nat} (hn : n < (s.vregAt v).length) (m : Nat)
    (g : Number → Number) :
    (s.modifyLane v n g).laneAt q m = if q = v ∧ m = n then g (s.laneAt q m) else s.laneAt q m := by
  by_cases hq : q = v
  · subst hq
    have hv : (s.modifyLane q n g).vregAt q = (s.vregAt q).modify n g := by simp [State.modifyLane, State.vregAt]
    simp only [State.laneAt, hv, List.getD_eq_getElem?_getD, List.getElem?_modify, true_and]
    by_cases hm : m = n
    · subst hm
      simp [hn]
    · have hm' : ¬ n = m := fun e => hm e.symm
      simp [hm, hm']
  · have hne : (v : Nat) ≠ q := fun e => hq (Fin.ext e.symm)
    have hv : (s.modifyLane v n g).vregAt q = s.vregAt q := by simp [State.modifyLane, State.vregAt, hne]
    simp [State.laneAt, hv, hq]

theorem Number.cell_setCell (a : Number) {k : Nat} (hk : k < a.cells.length) (j : Nat) (x : Cell) :
    (a.setCell k x).cell j = if j = k then x else a.cell j := by
  simp only [Number.cell, Number.setCell, List.getD_eq_getElem?_getD, List.getElem?_set]
  by_cases hj : j = k
  · subst hj
    simp [hk]
  · have hj' : ¬ k = j := fun e => hj e.symm
    simp [hj, hj']

/-- The slot is there in a state of this shape: its row is a cell and its lane exists. -/
def Slot.Exists (p : Params) : Slot → Prop
  | .scalarCell _ k => k < p.lMax
  | .laneCell _ k n => k < p.lMax ∧ n < p.vcap
  | .laneSign _ n | .count n => n < p.vcap
  | _ => True

/-- What a data slot reads after x was written to it: a sign its mask, a count its 16 bits, every cell x. -/
def Slot.readBack (x : Cell) : Slot → Cell
  | .scalarSign _ | .laneSign _ _ => signMask (x.getLsbD 0)
  | .count _ => (x.setWidth 16).setWidth 64
  | _ => x

section
variable {s : State} (h : s.Shape)
include h

theorem State.Shape.length_lane {v : VReg} {n : Nat} (hn : n < s.params.vcap) :
    (s.laneAt v n).cells.length = s.params.lMax := by
  obtain ⟨-, hv, -⟩ := h
  obtain ⟨hlen, hcells⟩ := hv v
  rw [State.laneAt, List.getD_eq_getElem _ _ (by omega)]
  exact hcells _ (List.getElem_mem _)

/-- A write to a data slot reads back there. -/
theorem readSlot_writeSlot_self {sl : Slot} {d : Nat} (hd : sl.dataOffset = some d) (he : sl.Exists s.params) (x : Cell) :
    (s.writeSlot sl x).readSlot sl = sl.readBack x := by
  obtain ⟨hs, hv, -, -, -, hc⟩ := id h
  cases sl with
  | raw w => simp [State.writeSlot, State.readSlot, Slot.readBack]
  | scalarCell r k =>
    rw [State.writeSlot_scalarCell, State.readSlot, State.sregAt_modifySreg, if_pos rfl,
      Number.cell_setCell _ ((hs r).symm ▸ he), if_pos rfl]
    rfl
  | scalarSign r =>
    rw [State.writeSlot_scalarSign, State.readSlot, State.sregAt_modifySreg, if_pos rfl]
    rfl
  | count n =>
    have hn : n < s.count.length := hc.symm ▸ he
    simp [State.writeSlot, State.readSlot, Slot.readBack, State.countAt, hn]
  | laneCell v k n =>
    obtain ⟨hk, hn⟩ := he
    rw [State.writeSlot_laneCell, State.readSlot, State.laneAt_modifyLane s v v ((hv v).1.symm ▸ hn), if_pos ⟨rfl, rfl⟩,
      Number.cell_setCell _ (h.length_lane hn ▸ hk), if_pos rfl]
    rfl
  | laneSign v n =>
    rw [State.writeSlot_laneSign, State.readSlot, State.laneAt_modifyLane s v v ((hv v).1.symm ▸ he), if_pos ⟨rfl, rfl⟩]
    rfl
  | _ => simp at hd

/-- A write to a data slot changes what no other slot reads. -/
theorem readSlot_writeSlot_of_ne {sl sl' : Slot} {d : Nat} (hd : sl.dataOffset = some d) (he : sl.Exists s.params)
    (hne : sl' ≠ sl) (x : Cell) : (s.writeSlot sl x).readSlot sl' = s.readSlot sl' := by
  obtain ⟨hs, hv, -, -, -, hc⟩ := id h
  cases sl with
  | raw w =>
    cases sl' with
    | raw w' =>
      have hw : (w : Nat) ≠ w' := fun e => hne (congrArg Slot.raw (Fin.ext e.symm))
      simp [State.writeSlot, State.readSlot, hw]
    | csr c => cases c <;> rfl
    | _ => rfl
  | scalarCell r k =>
    rw [State.writeSlot_scalarCell]
    cases sl' with
    | scalarCell r' k' =>
      simp only [State.readSlot, State.sregAt_modifySreg]
      split_ifs with hr
      · rw [Number.cell_setCell _ ((hs r).symm ▸ he), if_neg fun e => hne (by rw [hr, e]), hr]
      · rfl
    | scalarSign r' =>
      simp only [State.readSlot, State.sregAt_modifySreg]
      split_ifs with hr
      · rw [hr]; rfl
      · rfl
    | csr c => cases c <;> rfl
    | _ => rfl
  | scalarSign r =>
    rw [State.writeSlot_scalarSign]
    cases sl' with
    | scalarCell r' k' =>
      simp only [State.readSlot, State.sregAt_modifySreg]
      split_ifs with hr
      · rw [hr]; rfl
      · rfl
    | scalarSign r' =>
      have hr : r' ≠ r := fun e => hne (congrArg Slot.scalarSign e)
      simp only [State.readSlot, State.sregAt_modifySreg, if_neg hr]
    | csr c => cases c <;> rfl
    | _ => rfl
  | count n =>
    cases sl' with
    | count m =>
      have hn : Slot.count n ≠ .count m := hne.symm
      rw [State.readSlot, State.readSlot, State.countAt_writeSlot_of_ne s hn]
    | csr c => cases c <;> rfl
    | _ => rfl
  | laneCell v k n =>
    obtain ⟨hk, hn⟩ := he
    have hlen : n < (s.vregAt v).length := (hv v).1.symm ▸ hn
    rw [State.writeSlot_laneCell]
    cases sl' with
    | laneCell v' k' n' =>
      simp only [State.readSlot, State.laneAt_modifyLane s v v' hlen]
      split_ifs with hvn
      · obtain ⟨rfl, rfl⟩ := hvn
        rw [Number.cell_setCell _ (h.length_lane hn ▸ hk), if_neg fun e => hne (by rw [e])]
      · rfl
    | laneSign v' n' =>
      simp only [State.readSlot, State.laneAt_modifyLane s v v' hlen]
      split_ifs <;> rfl
    | csr c => cases c <;> rfl
    | _ => rfl
  | laneSign v n =>
    have hlen : n < (s.vregAt v).length := (hv v).1.symm ▸ he
    rw [State.writeSlot_laneSign]
    cases sl' with
    | laneCell v' k' n' =>
      simp only [State.readSlot, State.laneAt_modifyLane s v v' hlen]
      split_ifs <;> rfl
    | laneSign v' n' =>
      have hvn : ¬ (v' = v ∧ n' = n) := fun ⟨ev, en⟩ => hne (by rw [ev, en])
      simp only [State.readSlot, State.laneAt_modifyLane s v v' hlen, if_neg hvn]
    | csr c => cases c <;> rfl
    | _ => rfl
  | _ => simp at hd

/-- A write of x to the data slot at an offset reads back there and nowhere else (R83, R90). -/
theorem writeReadsBack_of_slot {o : BitVec 23} {sl : Slot} (hslot : slotOf s.params o.toNat = sl)
    (hd : sl.dataOffset = some o.toNat) (he : sl.Exists s.params) (ha : o.toNat % 8 = 0) (x : Cell) :
    WriteReadsBack s o x (sl.readBack x) := by
  have hcmd : o ≠ commandOffset := by
    rintro rfl
    rw [← hslot, show slotOf s.params commandOffset.toNat = _ from slotOf_command _] at hd
    simp at hd
  have hparams := s.writeSlot_params sl x
  refine ⟨s.writeSlot sl x, by rw [serve_host8 o x s ha hcmd, hslot], ?_, ?_, fun o' y hne ha' hy => ?_⟩
  · cases sl with
    | raw | scalarCell | scalarSign | count | laneCell | laneSign => rfl
    | _ => simp at hd
  · rw [hostReads_iff _ o.isLt ha, hparams, hslot]
    exact readSlot_writeSlot_self h hd he x
  · rw [hostReads_iff _ o'.isLt ha'] at hy ⊢
    have hother : slotOf s.params o'.toNat ≠ sl := fun e =>
      hne (BitVec.eq_of_toNat_eq (offset_eq_of_dataOffset ha' (e ▸ hd)).symm)
    rw [hparams, readSlot_writeSlot_of_ne h hd he hother, hy]

end

/-- Settles O16: each offset names one slot, a data slot is named by no other offset, and a write reaches that slot only. -/
theorem dataSlotReadsBack : Obligations.DataSlotReadsBack := by
  intro s hs
  obtain ⟨hp, hshape, -⟩ := id hs
  obtain ⟨-, hl, hcap⟩ := id hp
  obtain ⟨-, -, hilen, hdlen, helen, -⟩ := id hshape
  have hread : ∀ {o : Nat} {sl : Slot}, slotOf s.params o = sl → o < 2 ^ 23 → o % 8 = 0 → HostReads s o (s.readSlot sl) :=
    fun hsl ho ha => hsl ▸ hostReads_slot s ho ha
  refine ⟨fun r k hk => hread (slotOf_scalarCell hp r hk) (by omega) (by omega),
    fun r => hread (slotOf_scalarSign hp r) (by omega) (by omega),
    fun v k n hk hn => hread (slotOf_laneCell hp v hk hn) (by omega) (by omega),
    fun v n hn => hread (slotOf_laneSign hp v hn) (by omega) (by omega),
    fun n hn => hread (slotOf_countSlot hp hn) (by omega) (by omega),
    fun w => hread (slotOf_raw s.params w) (by omega) (by omega),
    fun w hw => ⟨_, hread (slotOf_doneWord s.params hw) (by omega) (by omega), fun j hj => ?_⟩,
    fun w hw => ⟨_, hread (slotOf_escWord s.params hw) (by omega) (by omega), fun j hj => ?_⟩,
    fun w hw => ⟨_, hread (slotOf_inplayWord s.params hw) (by omega) (by omega), fun j hj => ?_⟩,
    fun o v ho => ?_, fun o v ho => ?_, fun o v ho => ?_, fun o v ho => ?_,
    fun o ha => ⟨_, hostReads_slot s o.isLt ha⟩⟩
  · rw [State.readSlot, getLsbD_flagWord _ _ hj]
    exact getD_eq_and_of_length hdlen _
  · rw [State.readSlot, getLsbD_flagWord _ _ hj]
    exact getD_eq_and_of_length helen _
  · rw [State.readSlot, getLsbD_flagWord _ _ hj]
    exact getD_eq_and_of_length hilen _
  · have hcmd : o ≠ commandOffset := by
      rintro rfl
      rcases ho with ⟨w, -, e⟩ | ⟨w, -, e⟩ | ⟨w, -, e⟩ <;> exact absurd e (by simp [commandOffset]; omega)
    rcases ho with ⟨w, hw, e⟩ | ⟨w, hw, e⟩ | ⟨w, hw, e⟩
    · rw [serve_host8 o v s (by omega) hcmd, e, slotOf_doneWord _ hw]; rfl
    · rw [serve_host8 o v s (by omega) hcmd, e, slotOf_escWord _ hw]; rfl
    · rw [serve_host8 o v s (by omega) hcmd, e, slotOf_inplayWord _ hw]; rfl
  · rcases ho with ⟨w, hw, e⟩ | ⟨r, k, hr, hk, e⟩ | ⟨w, k, n, hw, hk, hn, e⟩
    · exact writeReadsBack_of_slot (sl := .raw ⟨w, hw⟩) hshape (e ▸ slotOf_raw s.params ⟨w, hw⟩)
        (congrArg some e.symm) trivial (by omega) v
    · exact writeReadsBack_of_slot (sl := .scalarCell ⟨r, hr⟩ k) hshape (e ▸ slotOf_scalarCell hp ⟨r, hr⟩ hk)
        (congrArg some e.symm) hk (by omega) v
    · exact writeReadsBack_of_slot (sl := .laneCell ⟨w, hw⟩ k n) hshape (e ▸ slotOf_laneCell hp ⟨w, hw⟩ hk hn)
        (congrArg some e.symm) ⟨hk, hn⟩
        (by omega) v
  · rcases ho with ⟨r, hr, e⟩ | ⟨w, n, hw, hn, e⟩
    · exact writeReadsBack_of_slot (sl := .scalarSign ⟨r, hr⟩) hshape (e ▸ slotOf_scalarSign hp ⟨r, hr⟩)
        (congrArg some e.symm) trivial (by omega) v
    · exact writeReadsBack_of_slot (sl := .laneSign ⟨w, hw⟩ n) hshape (e ▸ slotOf_laneSign hp ⟨w, hw⟩ hn)
        (congrArg some e.symm) hn (by omega) v
  · obtain ⟨n, hn, e⟩ := ho
    exact writeReadsBack_of_slot (sl := .count n) hshape (e ▸ slotOf_countSlot hp hn) (congrArg some e.symm) hn (by omega) v

end Sys2Proof.Machine
end

section
/-! PROOFS. The counters, `CMDCNT` and the interrupt enables are advisory (R63, R325): no command but a count reads one. Settled
here: O28. -/

namespace Sys2Proof.Machine

/-- The states differ in nothing but the counters, the sequence number a fault saves and the interrupt enables, which have the
given values in the second. -/
def SameButCounters (fie die : Bool) (s u : State) : Prop :=
  ∃ a m c q, u = { s with acarry := a, mcarry := m, cmdcnt := c, faultSeq := q, fie := fie, die := die }

/-- No rule tells states apart that differ in counters and enables only, and no rule writes an enable (R53, R63). -/
theorem congruence_sameButCounters (fie die : Bool) : Congruence (SameButCounters fie die) where
  faultV := by rintro s _ ⟨_, _, _, _, rfl⟩; rfl
  configured := by rintro s _ ⟨_, _, _, _, rfl⟩; rfl
  format := by rintro s _ ⟨_, _, _, _, rfl⟩; rfl
  threshMsl := by rintro s _ ⟨_, _, _, _, rfl⟩; rfl
  vcount := by rintro s _ ⟨_, _, _, _, rfl⟩; rfl
  isActive := by rintro s _ ⟨_, _, _, _, rfl⟩; rfl
  splitValue := by rintro s _ ⟨_, _, _, _, rfl⟩; rfl
  sreg := by rintro s _ ⟨_, _, _, _, rfl⟩ - r; exact .refl _ _
  lane := by rintro s _ ⟨_, _, _, _, rfl⟩ - v n; exact .refl _ _
  drop := by rintro s _ ⟨_, _, _, _, rfl⟩; exact ⟨_, _, _, _, rfl⟩
  accept := by rintro s _ ⟨_, _, _, _, rfl⟩; exact ⟨_, _, _, _, rfl⟩
  faulted := by rintro s _ ⟨_, _, _, _, rfl⟩ w x; exact ⟨_, _, _, _, rfl⟩
  plain := by rintro s _ ⟨_, _, _, _, rfl⟩ p; cases p <;> exact ⟨_, _, _, _, rfl⟩
  writeSreg := by
    rintro s _ ⟨a, m, c, q, rfl⟩ r x y hxy
    rw [s.writeSreg_congr r hxy]
    exact ⟨a, m, c, q, rfl⟩
  writeLane := by
    rintro s _ ⟨a, m, c, q, rfl⟩ v n x y hxy
    rw [s.writeLane_congr v n hxy]
    exact ⟨a, m, c, q, rfl⟩

/-- The rule of `CONSTRUCT` reads no counter and no enable. -/
theorem ruleConstruct_sameButCounters {fie die : Bool} {s u : State} (h : SameButCounters fie die s u) :
    SameAnswer (SameButCounters fie die) (ruleConstruct s) (ruleConstruct u) := by
  obtain ⟨_, _, _, _, rfl⟩ := h
  exact ruleConstruct_congr rfl rfl rfl rfl rfl fun _ _ _ _ _ _ => ⟨_, _, _, _, rfl⟩

theorem exec_sameButCounters {fie die : Bool} {i : Instr} {s u t : State} (h : SameButCounters fie die s u)
    (ht : exec i s = .next t) : ∃ t', exec i u = .next t' ∧ SameButCounters fie die t t' := by
  have hR := congruence_sameButCounters fie die
  by_cases hi : i = .construct
  · subst hi
    rw [exec_eq_runCommand] at ht ⊢
    exact runCommand_congr (hR.faultV h) (hR.configured h) (hR.drop h) (hR.faulted h _)
      (fun _ => ruleConstruct_sameButCounters (hR.accept h)) ht
  · exact hR.exec hi h ht

/-- Settles O28: the congruence of `SameButCounters`, with the rule of `CONSTRUCT`. -/
theorem countersAreAdvisory : Obligations.CountersAreAdvisory := by
  intro i s t a m c fie die h
  obtain ⟨u, hu, _, _, _, _, rfl⟩ := exec_sameButCounters (fie := fie) (die := die) ⟨a, m, c, s.faultSeq, rfl⟩ h
  exact ⟨_, hu, rfl⟩

end Sys2Proof.Machine
end

section
/-! PROOFS. Encodings and values determine each other (R147 to R149, R158): a valid Number's cells are the digits of its word,
in 2C with the top one sign-extended, and the word is the value modulo 2^T. Settled here: O31. -/

namespace Sys2Proof.Machine

/-- The digits of a sum of digits are its terms. -/
theorem natDigit_sumBelow {b n k : Nat} {g : Nat → Nat} (h : ∀ j, j < n → g j < 2 ^ b) (hk : k < n) :
    natDigit b (sumBelow n fun j => g j * 2 ^ (b * j)) k = g k := by
  induction n with
  | zero => omega
  | succ n ih =>
    have hlow : sumBelow n (fun j => g j * 2 ^ (b * j)) < 2 ^ (b * n) :=
      sumBelow_digits_lt fun j hj => h j (by omega)
    rw [sumBelow_succ, natDigit]
    by_cases he : k = n
    · subst he
      rw [Nat.add_mul_div_right _ _ (by positivity), Nat.div_eq_of_lt hlow, zero_add, Nat.mod_eq_of_lt (h k hk)]
    · have hplace : g n * 2 ^ (b * n) = 2 ^ (b * k) * (2 ^ b * (g n * 2 ^ (b * (n - k - 1)))) := by
        have hsplit : b * n = b * k + b + b * (n - k - 1) := by
          obtain ⟨m, rfl⟩ : ∃ m, n = k + 1 + m := ⟨n - k - 1, by omega⟩
          rw [show k + 1 + m - k - 1 = m by omega]
          ring
        rw [hsplit, pow_add, pow_add]
        ring
      rw [hplace, Nat.add_mul_div_left _ _ (by positivity), Nat.add_mul_mod_self_left]
      exact ih (fun j hj => h j (by omega)) (by omega)

theorem digit_eq_natDigit (f : Format) (a : Number) {k : Nat} (hk : k < f.l) :
    digit f a k = natDigit f.b (wordValue f a) k :=
  (natDigit_sumBelow (fun j _ => digit_lt f a j) hk).symm

/-- A cell of a valid SM operand is its digit (R142). -/
theorem cell_of_validSM {f : Format} {a : Number} (h : validSM f a = true) {k : Nat} (hk : k < f.l) :
    (a.cell k).toNat = natDigit f.b (wordValue f a) k := by
  have hcell := of_decide_eq_true (List.all_eq_true.1 h k (List.mem_range.2 hk))
  rw [← digit_eq_natDigit f a hk, digit, Nat.mod_eq_of_lt hcell]

section
variable {f : Format} (h : f.Legal)
include h

/-! ### Sign extension of the top digit (R143, R148) -/

/-- A cell that is a digit sign-extended from bit B−1 is the one that R148 makes of its low B bits. -/
theorem cell_eq_signExtend {c d : Nat} (hc : c < 2 ^ 64) (hd : d = c % 2 ^ f.b) :
    (c / 2 ^ (f.b - 1) = 0 ∨ c / 2 ^ (f.b - 1) = 2 ^ (64 - (f.b - 1)) - 1) ↔
      c = if 2 ^ (f.b - 1) ≤ d then d + 2 ^ 64 - 2 ^ f.b else d := by
  obtain ⟨hb | hb, -⟩ := h <;> (simp only [hb] at hd ⊢; split <;> omega)

/-- What R148 makes of a digit has the digit as its low B bits. -/
theorem signExtend_mod {d : Nat} (hd : d < 2 ^ f.b) :
    (if 2 ^ (f.b - 1) ≤ d then d + 2 ^ 64 - 2 ^ f.b else d) % 2 ^ f.b = d ∧
      (if 2 ^ (f.b - 1) ≤ d then d + 2 ^ 64 - 2 ^ f.b else d) < 2 ^ 64 := by
  obtain ⟨hb | hb, -⟩ := h <;> (simp only [hb] at hd ⊢; split <;> omega)

omit h in
theorem enc2CCell_of_lt {k : Nat} (hk : k + 1 < f.l) (u : Nat) : enc2CCell f u k = natDigit f.b u k := by
  rw [enc2CCell, if_neg (by omega)]

theorem enc2CCell_top (u : Nat) : enc2CCell f u (f.l - 1) =
    if 2 ^ (f.b - 1) ≤ natDigit f.b u (f.l - 1) then natDigit f.b u (f.l - 1) + 2 ^ 64 - 2 ^ f.b
    else natDigit f.b u (f.l - 1) := by
  simp only [enc2CCell, Nat.sub_add_cancel h.one_le_l, true_and]

theorem enc2CCell_mod (u : Nat) {k : Nat} (hk : k < f.l) :
    enc2CCell f u k % 2 ^ f.b = natDigit f.b u k ∧ enc2CCell f u k < 2 ^ 64 := by
  by_cases htop : k + 1 < f.l
  · rw [enc2CCell_of_lt htop]
    exact ⟨Nat.mod_eq_of_lt (natDigit_lt f.b u k), natDigit_lt_two_pow_64 h u k⟩
  · obtain rfl : k = f.l - 1 := by omega
    rw [enc2CCell_top h]
    exact signExtend_mod h (natDigit_lt f.b u _)

/-- A cell of a valid 2C operand is the one R148 makes of its word (R143). -/
theorem cell_of_valid2C {a : Number} (hv : valid2C f a = true) {k : Nat} (hk : k < f.l) :
    (a.cell k).toNat = enc2CCell f (wordValue f a) k := by
  obtain ⟨hlow, htop⟩ := Bool.and_eq_true_iff.1 hv
  have hdigit := digit_eq_natDigit f a hk
  by_cases hk' : k + 1 < f.l
  · have hcell := of_decide_eq_true (List.all_eq_true.1 hlow k (List.mem_range.2 (by omega)))
    rw [enc2CCell_of_lt hk', ← hdigit, digit, Nat.mod_eq_of_lt hcell]
  · obtain rfl : k = f.l - 1 := by omega
    rw [enc2CCell_top h]
    exact (cell_eq_signExtend h (a.cell (f.l - 1)).isLt hdigit.symm).1 (by simpa using htop)

/-! ### The value of `enc_2C` (R148) -/

theorem cell_enc2C (x : Int) {k : Nat} (hk : k < f.l) :
    ((enc2C f x).cell k).toNat = enc2CCell f (x % 2 ^ f.t).toNat k := by
  have hcell : (enc2C f x).cell k = BitVec.ofNat 64 (enc2CCell f (x % 2 ^ f.t).toNat k) := by
    simp [Number.cell, enc2C, hk]
  rw [hcell, BitVec.toNat_ofNat, Nat.mod_eq_of_lt (enc2CCell_mod h _ hk).2]

theorem wordValue_enc2C (x : Int) : (wordValue f (enc2C f x) : Int) = x % 2 ^ f.t := by
  have hnonneg : 0 ≤ x % 2 ^ f.t := Int.emod_nonneg _ (by positivity)
  have hlt : (x % 2 ^ f.t).toNat < 2 ^ f.t := by
    zify
    rw [Int.toNat_of_nonneg hnonneg]
    exact Int.emod_lt_of_pos _ (by positivity)
  have hdigits : wordValue f (enc2C f x) =
      sumBelow f.l fun k => natDigit f.b (x % 2 ^ f.t).toNat k * 2 ^ (f.b * k) :=
    sumBelow_congr fun k hk => by rw [digit, cell_enc2C h x hk, (enc2CCell_mod h _ hk).1]
  rw [hdigits, sumBelow_natDigit, ← h.t_eq_mul, Nat.mod_eq_of_lt hlt, Int.toNat_of_nonneg hnonneg]

theorem valid2C_enc2C (x : Int) : valid2C f (enc2C f x) = true := by
  have hl := h.one_le_l
  refine Bool.and_eq_true_iff.2 ⟨List.all_eq_true.2 fun k hk => decide_eq_true ?_, ?_⟩
  · have hk' := List.mem_range.1 hk
    rw [cell_enc2C h x (by omega), enc2CCell_of_lt (by omega)]
    exact natDigit_lt f.b _ k
  · have hcell := cell_enc2C h x (k := f.l - 1) (by omega)
    have hdigit := (enc2CCell_mod h (x % 2 ^ f.t).toNat (k := f.l - 1) (by omega)).1
    rw [← hcell] at hdigit
    rw [enc2CCell_top h] at hcell
    simpa using (cell_eq_signExtend h ((enc2C f x).cell (f.l - 1)).isLt hdigit.symm).2 hcell

/-- The word of a Number is its 2C value modulo 2^T (R141). -/
theorem x2C_emod (a : Number) : x2C f a % 2 ^ f.t = wordValue f a := by
  have hlt : (wordValue f a : Int) < 2 ^ f.t := mod_cast wordValue_lt h a
  have hword : (wordValue f a : Int) % 2 ^ f.t = wordValue f a := Int.emod_eq_of_lt (Int.natCast_nonneg _) hlt
  unfold x2C
  split
  · rw [Int.sub_emod_right, hword]
  · exact hword

theorem x2C_enc2C {x : Int} (hx : inrange2C f x = true) : x2C f (enc2C f x) = x := by
  obtain ⟨hlo, hhi⟩ := of_decide_eq_true hx
  obtain ⟨hlo', hhi'⟩ := x2C_bounds h (enc2C f x)
  have hpow : (2 : Int) ^ f.t = 2 * 2 ^ (f.t - 1) := mod_cast h.two_pow_t
  have hmod := (x2C_emod h (enc2C f x)).trans (wordValue_enc2C h x)
  have hdvd : (2 : Int) ^ f.t ∣ x - x2C f (enc2C f x) := Int.ModEq.dvd hmod
  have hzero := Int.eq_zero_of_abs_lt_dvd hdvd (abs_lt.2 ⟨by omega, by omega⟩)
  omega

/-! ### A value and its Number -/

/-- The encoding of a value in range is valid, holds it and has its sign (R147, R148). -/
theorem holdsNumber_encRep {rep : Rep} {x : Int} (hx : inrangeRep f rep x = true) :
    HoldsNumber f rep (encRep f rep x) x := by
  cases rep with
  | sm => exact ⟨validSM_encSM h x, xSM_encSM h hx, rfl⟩
  | tc => exact ⟨valid2C_enc2C h x, x2C_enc2C h hx, rfl⟩

/-- The value of a valid Number determines its cells below L. -/
theorem cell_eq_of_xRep_eq {rep : Rep} {a b : Number} (ha : validRep f rep a = true) (hb : validRep f rep b = true)
    (hx : xRep f rep a = xRep f rep b) {k : Nat} (hk : k < f.l) : a.cell k = b.cell k := by
  refine BitVec.eq_of_toNat_eq ?_
  cases rep with
  | sm =>
    have hword : wordValue f a = wordValue f b := by
      rw [← mag_eq_wordValue ha, ← mag_eq_wordValue hb, ← natAbs_xSM, ← natAbs_xSM]
      exact congrArg Int.natAbs hx
    rw [cell_of_validSM ha hk, cell_of_validSM hb hk, hword]
  | tc =>
    have hword : wordValue f a = wordValue f b := by
      have hmod := congrArg (· % (2 : Int) ^ f.t) hx
      simp only [xRep, x2C_emod h] at hmod
      exact_mod_cast hmod
    rw [cell_of_valid2C h ha hk, cell_of_valid2C h hb hk, hword]

theorem sameNumber_of_holdsNumber {rep : Rep} {x : Int} {a b : Number} (ha : HoldsNumber f rep a x)
    (hb : HoldsNumber f rep b x) : SameNumber f.l a b := by
  obtain ⟨hav, hax, has⟩ := ha
  obtain ⟨hbv, hbx, hbs⟩ := hb
  exact ⟨fun k hk => cell_eq_of_xRep_eq h hav hbv (hax.trans hbx.symm) hk, has.trans hbs.symm⟩

omit h in
theorem natDigit_zero (b k : Nat) : natDigit b 0 k = 0 := by simp [natDigit]

omit h in
/-- Both encodings of 0 are the Number of 0 cells with sign 1 (R158). -/
theorem encRep_zero (f : Format) (rep : Rep) : encRep f rep 0 = { cells := List.replicate f.l 0, sign := true } := by
  cases rep
  · simp [encRep, encSM, natDigit_zero, List.map_const']
  · simp [encRep, enc2C, enc2CCell, natDigit_zero, List.map_const']

omit h in
theorem cell_replicate_zero (n k : Nat) (b : Bool) : ({ cells := List.replicate n 0, sign := b } : Number).cell k = 0 := by
  simp only [Number.cell, List.getD_eq_getElem?_getD, List.getElem?_replicate]
  split <;> rfl

end

/-- Settles O31: values from the words the encoders write, uniqueness from cells that the word determines. -/
theorem encodingsHoldTheirValue : Obligations.EncodingsHoldTheirValue := by
  intro f h
  refine ⟨fun rep x => holdsNumber_encRep h, fun rep x a b => sameNumber_of_holdsNumber h, fun k => ?_⟩
  have hsm : encSM f 0 = { cells := List.replicate f.l 0, sign := true } := encRep_zero f .sm
  have htc : enc2C f 0 = { cells := List.replicate f.l 0, sign := true } := encRep_zero f .tc
  rw [hsm, htc]
  exact ⟨cell_replicate_zero _ _ _, cell_replicate_zero _ _ _, rfl, rfl⟩

end Sys2Proof.Machine
end

section
/-! PROOFS. The bins of a multiplication hold the product, and `mcarries` counts the places they carry out of (R150 to R152).
Settled here: O33. -/

namespace Sys2Proof.Machine

/-! ### The partial products lie inside their bins -/

theorem partialProducts_place (f : Format) (a c : Nat) : ∀ p ∈ partialProducts f a c, p.1 + 1 < 2 * f.l := by
  simp only [partialProducts, List.mem_flatMap, List.mem_map, List.mem_range]
  rintro _ ⟨j, hj, i, hi, rfl⟩
  show j + i + 1 < 2 * f.l
  omega

theorem squareProducts_place (f : Format) (a : Nat) : ∀ p ∈ squareProducts f a, p.1 + 1 < 2 * f.l := by
  simp only [squareProducts, List.mem_flatMap, List.mem_map, List.mem_range, List.mem_range'_1]
  rintro _ ⟨j, hj, i, ⟨-, hi⟩, rfl⟩
  show j + i + 1 < 2 * f.l
  omega

theorem smallProducts_place (f : Format) (a m : Nat) : ∀ p ∈ smallProducts f a m, p.1 + 1 < f.l + 1 := by
  simp only [smallProducts, List.mem_map, List.mem_range]
  rintro _ ⟨i, hi, rfl⟩
  exact Nat.succ_lt_succ hi

/-- Bins filled from empty ones are as many, and weigh what the partial products do. -/
theorem bins_of_products {b n w : Nat} {bins : List Nat} {ps : List (Nat × Nat)}
    (hbins : bins = ps.foldl (fun bins p => accumulate b bins p.1 p.2) (List.replicate n 0))
    (hplace : ∀ p ∈ ps, p.1 + 1 < n) (hweight : productWeight b ps = w) :
    bins.length = n ∧ weightedSum b bins = w := by
  subst hbins
  rw [weightedSum_foldl_accumulate b (by simpa using hplace), hweight, length_foldl_accumulate]
  simp

/-! ### `sum_partials` (R152) -/

theorem length_sumPartialsFrom (b c : Nat) (bins : List Nat) : (sumPartialsFrom b c bins).digits.length = bins.length := by
  induction bins generalizing c with
  | nil => rfl
  | cons x bins ih => simp [sumPartialsFrom, ih]

theorem sumPartialsFrom_digits_lt (b c : Nat) (bins : List Nat) : ∀ d ∈ (sumPartialsFrom b c bins).digits, d < 2 ^ b := by
  induction bins generalizing c with
  | nil => simp [sumPartialsFrom]
  | cons x bins ih =>
    simp only [sumPartialsFrom, List.forall_mem_cons]
    exact ⟨Nat.mod_lt _ (by positivity), ih _⟩

theorem sumBelow_succ' (n : Nat) (g : Nat → Nat) : sumBelow (n + 1) g = g 0 + sumBelow n fun k => g (k + 1) := by
  induction n with
  | zero => simp [sumBelow]
  | succ n ih => rw [sumBelow_succ, ih, sumBelow_succ, add_assoc]

theorem sumBelow_mul_left (n m : Nat) (g : Nat → Nat) : sumBelow n (fun k => m * g k) = m * sumBelow n g := by
  induction n with
  | zero => rfl
  | succ n ih => rw [sumBelow_succ, sumBelow_succ, ih, mul_add]

/-- The carry c and the bins 0 to k weigh at least 2^(B(k+1)): they carry out of place k. -/
def carriesOut (b c : Nat) (bins : List Nat) (k : Nat) : Bool :=
  decide (2 ^ (b * (k + 1)) ≤ c + sumBelow (k + 1) fun j => bins.getD j 0 * 2 ^ (b * j))

theorem carriesOut_zero (b c x : Nat) (bins : List Nat) : carriesOut b c (x :: bins) 0 = decide ((x + c) / 2 ^ b ≠ 0) := by
  simp only [carriesOut, sumBelow_succ, sumBelow_zero]
  have hdiv : (x + c) / 2 ^ b ≠ 0 ↔ 2 ^ b ≤ x + c := by
    rw [← Nat.pos_iff_ne_zero, Nat.div_pos_iff]
    exact ⟨And.right, fun hle => ⟨by positivity, hle⟩⟩
  simp only [hdiv]
  simp [add_comm]

/-- A carry out of place k + 1 is one out of place k of the later bins, with the carry they get. -/
theorem carriesOut_succ (b c x : Nat) (bins : List Nat) (k : Nat) :
    carriesOut b c (x :: bins) (k + 1) = carriesOut b ((x + c) / 2 ^ b) bins k := by
  have hsum : (c + sumBelow (k + 1 + 1) fun j => (x :: bins).getD j 0 * 2 ^ (b * j)) =
      x + c + 2 ^ b * sumBelow (k + 1) fun j => bins.getD j 0 * 2 ^ (b * j) := by
    rw [sumBelow_succ', ← sumBelow_mul_left, ← add_assoc]
    congr 1
    · simp [add_comm]
    · refine sumBelow_congr fun j _ => ?_
      rw [List.getD_cons_succ, mul_add_one b j, pow_add]
      ring
  have hplace : 2 ^ (b * (k + 1 + 1)) = 2 ^ (b * (k + 1)) * 2 ^ b := by rw [← pow_add]; congr 1
  simp only [carriesOut, hsum, hplace, decide_eq_decide]
  rw [← Nat.le_div_iff_mul_le (by positivity), Nat.add_mul_div_left _ _ (by positivity)]

/-- `mcarries` counts the places but the last that carry out. -/
theorem mcarries_sumPartialsFrom (b c : Nat) (bins : List Nat) :
    (sumPartialsFrom b c bins).mcarries = ((List.range (bins.length - 1)).filter (carriesOut b c bins)).length := by
  induction bins generalizing c with
  | nil => rfl
  | cons x bins ih =>
    simp only [sumPartialsFrom, ih]
    cases bins with
    | nil => simp
    | cons y bins =>
      have htail : ((List.range bins.length).map Nat.succ).filter (carriesOut b c (x :: y :: bins)) =
          ((List.range bins.length).filter (carriesOut b ((x + c) / 2 ^ b) (y :: bins))).map Nat.succ := by
        rw [List.filter_map]
        congr 2
        funext k
        exact carriesOut_succ b c x (y :: bins) k
      simp only [List.length_cons, Nat.add_sub_cancel, List.range_succ_eq_map, List.filter_cons, htail, carriesOut_zero]
      by_cases hc : (x + c) / 2 ^ b = 0 <;> simp [hc]

/-- `sum_partials` of bins whose weight fits their places: as many digits, of the same weight, and the count of carries. -/
theorem sumPartials_spec {b n w : Nat} {bins : List Nat} (hlen : bins.length = n) (hweight : weightedSum b bins = w)
    (hfit : w < 2 ^ (b * n)) :
    bins.length = n ∧ weightedSum b bins = w ∧ (sumPartials b bins).digits.length = n ∧
      weightedSum b (sumPartials b bins).digits = w ∧ (∀ d ∈ (sumPartials b bins).digits, d < 2 ^ b) ∧
      (sumPartials b bins).mcarries = ((List.range (n - 1)).filter fun k =>
        decide (2 ^ (b * (k + 1)) ≤ sumBelow (k + 1) fun j => bins.getD j 0 * 2 ^ (b * j))).length := by
  subst hlen
  refine ⟨rfl, hweight, length_sumPartialsFrom b 0 bins, ?_, sumPartialsFrom_digits_lt b 0 bins, ?_⟩
  · rw [sumPartials, weightedSum_sumPartialsFrom, zero_add, hweight, Nat.mod_eq_of_lt hfit]
  · rw [sumPartials, mcarries_sumPartialsFrom]
    exact congrArg List.length (List.filter_congr fun k _ => by rw [carriesOut, zero_add])

/-- Settles O33: bins are sums of partial products, whose weight is the product and fits them. -/
theorem binsSumToTheProduct : Obligations.BinsSumToTheProduct := by
  intro f a c m h ha hc hm
  have hmul := bins_of_products (binsMul_eq_foldl_partialProducts f a c) (partialProducts_place f a c)
    (productWeight_partialProducts h ha hc)
  have hsqr := bins_of_products (binsSqr_eq_foldl_squareProducts f a) (squareProducts_place f a)
    (productWeight_squareProducts h ha)
  have hmuli := bins_of_products (binsMuli_eq_foldl_smallProducts f a m) (smallProducts_place f a m)
    (productWeight_smallProducts h ha m)
  have hfit : a * m < 2 ^ (f.b * (f.l + 1)) := by
    rw [mul_add_one f.b, ← h.t_eq_mul, pow_add]
    exact Nat.mul_lt_mul'' ha hm
  simp only [List.forall_mem_cons]
  exact ⟨sumPartials_spec hmul.1 hmul.2 (mul_lt_two_pow_bins h ha hc),
    sumPartials_spec hsqr.1 hsqr.2 (mul_lt_two_pow_bins h ha ha), sumPartials_spec hmuli.1 hmuli.2 hfit, nofun⟩

end Sys2Proof.Machine
end

section
/-! PROOFS. What a scalar command that is not turned away does (R310, R200): it writes one register and its counters, or it
faults. Every scalar statement is then about the Number its operation gives. Settled here: O12, O37, O38, O39, O40, O41, O43,
O44, O46. -/

namespace Sys2Proof.Machine

/-! ### Completion and faults (R310) -/

theorem exec_of_rule_ok {i : Instr} {s t : State} (hs : s.Ready) (h : commandRule i s.accept = .ok t) :
    exec i s = .next t := by
  rw [exec_eq_runCommand]
  exact runCommand_ok hs.1 (fun _ => hs.2) h

theorem exec_of_rule_error {i : Instr} {s : State} {r : Raised} (hs : s.Ready) (h : commandRule i s.accept = .error r) :
    exec i s = .next (s.faulted (encode i) r) := by
  rw [exec_eq_runCommand]
  exact runCommand_error hs.1 (fun _ => hs.2) h

/-- A command whose rule raises a fault that belongs to no lane (R12, R311). -/
theorem commandFaults_unlaned {i : Instr} {s : State} {c : Cause} (hs : s.Ready)
    (h : commandRule i s.accept = .error (.unlaned c)) : CommandFaults i s c.code 0xFFFFFFFF :=
  exec_of_rule_error hs h

theorem commandFaults_of_scalarResult {i : Instr} {s : State} {sd : SReg} {y : Except Cause Result} {c : Cause}
    (hs : s.Ready) (hrule : commandRule i s.accept = scalarResult sd y s.accept) (hy : y = .error c) :
    CommandFaults i s c.code 0xFFFFFFFF :=
  commandFaults_unlaned hs (by rw [hrule, hy]; rfl)

/-! ### Invalid operands (R145, R200) -/

/-- Settles O12: each operation validates its operands before anything else. -/
theorem invalidOperandFaults : Obligations.InvalidOperandFaults := by
  intro s hs rep sd sa sb k
  have hraise : ∀ {i : Instr}, commandRule i s.accept = .error (.unlaned .operandInvalid) →
      CommandFaults i s 0x07 0xFFFFFFFF := fun h => commandFaults_unlaned (c := .operandInvalid) hs h
  refine ⟨fun h => ?_, fun h => ?_, fun h => hraise ?_, fun h => hraise ?_, fun h => hraise ?_⟩
  · have hbad : ¬ (validRep s.format rep (s.sregAt sa) = true ∧ validRep s.format rep (s.sregAt sb) = true) := by
      rintro ⟨ha, hb⟩
      simp [ha, hb] at h
    exact ⟨commandFaults_of_scalarResult (c := .operandInvalid) hs rfl (operands_bind_of_invalid _ hbad),
      commandFaults_of_scalarResult (c := .operandInvalid) hs rfl (operands_bind_of_invalid _ hbad),
      commandFaults_of_scalarResult (c := .operandInvalid) hs rfl (operands_bind_of_invalid _ hbad)⟩
  · have hbad : ¬ validRep s.format rep (s.sregAt sa) = true := by simp [h]
    exact ⟨commandFaults_of_scalarResult (c := .operandInvalid) hs rfl (operand_bind_of_invalid _ hbad),
      commandFaults_of_scalarResult (c := .operandInvalid) hs rfl (operand_bind_of_invalid _ hbad),
      hraise (if_neg hbad), hraise (if_neg hbad)⟩
  · refine if_neg fun hv => ?_
    obtain ⟨ha, hb⟩ := Bool.and_eq_true_iff.1 hv
    exact h.elim (fun hn => Bool.false_ne_true (hn.symm.trans ha)) fun hn => Bool.false_ne_true (hn.symm.trans hb)
  · exact if_neg fun hv => Bool.false_ne_true (h.symm.trans hv)
  · exact if_neg fun hv => Bool.false_ne_true (h.symm.trans hv)

/-! ### Writing a register (R149) -/

/-- A Number written over one with enough cells is there below L. -/
theorem sameNumber_overwrite {l : Nat} {old : Number} (hl : l ≤ old.cells.length) (a : Number) :
    SameNumber l (old.overwrite l a) a :=
  ⟨fun k hk => by rw [Number.cell_overwrite, if_pos ⟨hk, by omega⟩], rfl⟩

theorem SameNumber.symm {l : Nat} {a b : Number} (h : SameNumber l a b) : SameNumber l b a :=
  ⟨fun k hk => (h.1 k hk).symm, h.2.symm⟩

theorem SameNumber.trans {l : Nat} {a b c : Number} (h : SameNumber l a b) (h' : SameNumber l b c) : SameNumber l a c :=
  ⟨fun k hk => (h.1 k hk).trans (h'.1 k hk), h.2.trans h'.2⟩

/-- What a Number holds is read of its cells below L and its sign. -/
theorem HoldsNumber.of_sameNumber {f : Format} (hf : f.Legal) {rep : Rep} {a b : Number} {x : Int}
    (h : HoldsNumber f rep b x) (hab : SameNumber f.l a b) : HoldsNumber f rep a x := by
  obtain ⟨hv, hx, hsign⟩ := h
  have hread := hab.readDepth hf.one_le_l
  exact ⟨(validRep_congr rep hread).trans hv, (xRep_congr rep hread).trans hx, hab.2.trans hsign⟩

/-- In a configured block every register has L cells (R9, R31). -/
theorem State.Inv.l_le_lMax {s : State} (hinv : s.Inv) (hc : s.configured = true) : s.format.l ≤ s.params.lMax := by
  obtain ⟨-, -, ⟨-, hconf⟩, -⟩ := hinv
  exact (hconf hc).2.1

theorem State.Inv.l_le_length_sreg {s : State} (hinv : s.Inv) (hc : s.configured = true) (r : SReg) :
    s.format.l ≤ (s.sregAt r).cells.length := by
  have hl := hinv.l_le_lMax hc
  obtain ⟨-, ⟨hs, -⟩, -⟩ := hinv
  rwa [hs r]

theorem State.sregAt_eq_of_sregs_eq {s t : State} (h : t.sregs = s.sregs) (r : SReg) : t.sregAt r = s.sregAt r := by
  rw [State.sregAt, State.sregAt, h]

section
variable {s t : State} (hinv : s.Inv) (hs : s.Ready)
include hinv hs

/-- A register write copies the Number and nothing else. -/
theorem sregCopies_of_sregs_eq {sd : SReg} {a : Number} (ht : t.sregs = (s.writeSreg sd a).sregs) :
    SregCopies s t sd a := by
  have hat := State.sregAt_eq_of_sregs_eq ht
  have hself : t.sregAt sd = (s.sregAt sd).overwrite s.format.l a := (hat sd).trans (s.sregAt_writeSreg_self sd a)
  obtain ⟨hcells, hsign⟩ := sameNumber_overwrite (hinv.l_le_length_sreg hs.2 sd) a
  rw [← hself] at hcells hsign
  refine ⟨hcells, hsign, fun k hk => ?_, fun r hr => (hat r).trans (s.sregAt_writeSreg_of_ne hr a)⟩
  rw [hself, Number.cell_overwrite_of_le hk]

theorem SregCopies.holds {sd : SReg} {a : Number} {rep : Rep} {x : Int} (h : SregCopies s t sd a)
    (ha : HoldsNumber s.format rep a x) : SregHolds s t sd rep x := by
  obtain ⟨hcells, hsign, hrest⟩ := h
  exact ⟨ha.of_sameNumber (hinv.format_legal hs.2) ⟨hcells, hsign⟩, hrest⟩

/-- A command that writes the encoding of an integer in range to a register. -/
theorem exec_writeSreg {i : Instr} {sd : SReg} {a : Number}
    (hrule : commandRule i s.accept = .ok (s.accept.writeSreg sd a)) :
    ∃ t, exec i s = .next t ∧ t = { s with cmdcnt := s.cmdcnt + 1, sregs := t.sregs } ∧ SregCopies s t sd a :=
  ⟨_, exec_of_rule_ok hs hrule, rfl, sregCopies_of_sregs_eq hinv hs rfl⟩

/-- A scalar command whose operation gives a result: the register, the counters and nothing else (R200). -/
theorem exec_scalarResult {i : Instr} {sd : SReg} {y : Except Cause Result} {r : Result} {rep : Rep} {x : Int}
    (hrule : commandRule i s.accept = scalarResult sd y s.accept) (hy : y = .ok r)
    (hx : HoldsNumber s.format rep r.value x) :
    ∃ t, exec i s = .next t ∧
      t = { s with
        cmdcnt := s.cmdcnt + 1, sregs := t.sregs, mcarry := s.mcarry + BitVec.ofNat 32 r.mcarries
        acarry := if r.saturated then s.acarry + 1 else s.acarry } ∧ SregHolds s t sd rep x := by
  have hok : commandRule i s.accept = .ok ((s.accept.writeSreg sd r.value).countResult r) := by rw [hrule, hy]; rfl
  rw [State.countResult_eq] at hok
  exact ⟨_, exec_of_rule_ok hs hok, rfl, (sregCopies_of_sregs_eq hinv hs rfl).holds hinv hs hx⟩

/-! ### Products (R201 to R203) -/

/-- A command that is the range check of a product: it writes the product and counts its carries, or faults. -/
theorem exec_productResult {i : Instr} {sd : SReg} {rep : Rep} {x : Int} {n : Nat} {y : Except Cause Result}
    (hrule : commandRule i s.accept = scalarResult sd y s.accept) (hy : y = productResult s.format rep x n) :
    (inrangeRep s.format rep x = true → ∃ t, exec i s = .next t ∧
      t = { s with cmdcnt := s.cmdcnt + 1, sregs := t.sregs, mcarry := s.mcarry + BitVec.ofNat 32 n } ∧
      SregHolds s t sd rep x) ∧
    (inrangeRep s.format rep x = false → CommandFaults i s 0x08 0xFFFFFFFF) := by
  subst hy
  refine ⟨fun hx => ?_, fun hx => ?_⟩
  · exact exec_scalarResult hinv hs hrule (productResult_of_inrange n hx)
      (holdsNumber_encRep (hinv.format_legal hs.2) hx)
  · exact commandFaults_of_scalarResult (c := .mulOverflow) hs hrule (productResult_of_not_inrange n (by simp [hx]))

end

/-- The carries a product counts: none when a factor is 0 (R201). -/
def mulCarries (f : Format) (xa xb : Int) : Nat :=
  if xa = 0 ∨ xb = 0 then 0 else (sumPartials f.b (binsMul f xa.natAbs xb.natAbs)).mcarries

/-- The carries a square counts (R202). -/
def sqrCarries (f : Format) (xa : Int) : Nat :=
  if xa = 0 then 0 else (sumPartials f.b (binsSqr f xa.natAbs)).mcarries

/-- The carries a small product counts (R203). -/
def muliCarries (f : Format) (xa k : Int) : Nat :=
  if xa = 0 ∨ k = 0 then 0 else (sumPartials f.b (binsMuli f xa.natAbs k.natAbs)).mcarries

section
variable {f : Format} (h : f.Legal) {rep : Rep} {a b : Number} (ha : validRep f rep a = true)
include h ha

/-- `MUL` of valid operands, with its carries (R201). -/
theorem opMul_eq_productResult (hb : validRep f rep b = true) : opMul f rep a b =
    productResult f rep (truncatedProduct f (xRep f rep a) (xRep f rep b)) (mulCarries f (xRep f rep a) (xRep f rep b)) := by
  rw [opMul, operands_bind_of_valid _ ha hb, mulCarries]
  split
  case isTrue h0 =>
    have hzero : truncatedProduct f (xRep f rep a) (xRep f rep b) = 0 := by
      rcases h0 with h0 | h0 <;> simp [truncatedProduct, signedProduct, h0]
    rw [hzero, plain_zero_eq_productResult]
  case isFalse =>
    simp only [shiftAndTrim, weightedSum_binsMul h (natAbs_xRep_lt h ha) (natAbs_xRep_lt h hb), truncatedProduct]

/-- `SQR` of a valid operand, with its carries (R202). -/
theorem opSqr_eq_productResult : opSqr f rep a =
    productResult f rep (truncatedProduct f (xRep f rep a) (xRep f rep a)) (sqrCarries f (xRep f rep a)) := by
  rw [opSqr, operand_bind_of_valid _ ha, sqrCarries]
  split
  case isTrue h0 => simp [truncatedProduct, signedProduct, h0, plain_zero_eq_productResult]
  case isFalse =>
    simp only [shiftAndTrim, weightedSum_binsSqr h (natAbs_xRep_lt h ha), truncatedProduct, signedProduct, if_true]

/-- `MULI` of a valid operand and a factor it admits, with its carries (R203). -/
theorem opMuli_eq_productResult {k : Int} (hk : SImmOk k) (hadm : muliAdmits f (xRep f rep a) k) :
    opMuli f rep a k = productResult f rep (xRep f rep a * k) (muliCarries f (xRep f rep a) k) := by
  rw [opMuli, operand_bind_of_valid _ ha, muliCarries]
  split
  case isTrue h0 => rw [mul_eq_zero.2 h0, plain_zero_eq_productResult]
  case isFalse h0 =>
    obtain ⟨hx, hk0⟩ := not_or.1 h0
    have hfits := (hadm.resolve_left hx).resolve_left hk0
    have hsmall : k.natAbs < 2 ^ f.b := by
      have hmono : 2 ^ 31 ≤ 2 ^ f.b := Nat.pow_le_pow_right two_pos h.b_le.1
      omega
    rw [if_neg hfits.not_gt]
    simp only [weightedSum_binsMuli h (natAbs_xRep_lt h ha) hsmall, signedProduct_natAbs_mul hx hk0]

end

/-- Settles O37: `MUL` of valid operands is the range check of the truncated product. -/
theorem mulTruncatedProduct : Obligations.MulTruncatedProduct := fun _ hinv hs rep sd sa sb ha hb =>
  exec_productResult (i := .mul rep sd sa sb) hinv hs rfl (opMul_eq_productResult (hinv.format_legal hs.2) ha hb)

/-- A truncated square is never negative (R202). -/
theorem truncatedProduct_self (f : Format) (x : Int) :
    truncatedProduct f x x = ((x.natAbs ^ 2 / 2 ^ f.f : Nat) : Int) := by
  rw [truncatedProduct, signedProduct, if_pos rfl, sq]

/-- Settles O38: `SQR` of a valid operand is the range check of the truncated square. -/
theorem sqrTruncatedSquare : Obligations.SqrTruncatedSquare := by
  intro s hinv hs rep sd sa ha
  have hop := opSqr_eq_productResult (hinv.format_legal hs.2) ha
  rw [truncatedProduct_self] at hop
  exact exec_productResult (i := .sqr rep sd sa) hinv hs rfl hop

theorem lt_two_pow_bitlen (x : Nat) : x < 2 ^ bitlen x := by
  unfold bitlen
  split
  case isTrue h => simp [h]
  case isFalse => exact Nat.lt_log2_self

/-- A product that the static check of `MULI` admits fits T bits, so in SM it is in range (R203). -/
theorem inrangeSM_of_muliAdmits {f : Format} (h : f.Legal) {x k : Int} (hadm : muliAdmits f x k) :
    inrangeSM f (x * k) = true := by
  by_cases h0 : x = 0 ∨ k = 0
  · rw [mul_eq_zero.2 h0]
    exact inrangeRep_zero f .sm
  obtain ⟨hx, hk⟩ := not_or.1 h0
  have hfits := (hadm.resolve_left hx).resolve_left hk
  have hxlt : x.natAbs < 2 ^ f.f * 2 ^ bitlen (x.natAbs / 2 ^ f.f) := by
    rw [mul_comm]
    exact (Nat.div_lt_iff_lt_mul (by positivity)).1 (lt_two_pow_bitlen _)
  have hprod : (x * k).natAbs < 2 ^ f.t := by
    rw [Int.natAbs_mul]
    calc x.natAbs * k.natAbs < 2 ^ f.f * 2 ^ bitlen (x.natAbs / 2 ^ f.f) * 2 ^ bitlen k.natAbs :=
          Nat.mul_lt_mul'' hxlt (lt_two_pow_bitlen _)
      _ = 2 ^ (f.f + (bitlen (x.natAbs / 2 ^ f.f) + bitlen k.natAbs)) := by rw [pow_add, pow_add, mul_assoc]
      _ ≤ 2 ^ f.t := Nat.pow_le_pow_right two_pos (by rw [← h.f_add_i]; omega)
  zify at hprod
  exact decide_eq_true (abs_lt.1 hprod)

/-- Settles O39: an admitted product is range-checked, which in SM it passes; one not admitted faults. -/
theorem muliExactProduct : Obligations.MuliExactProduct := by
  intro s hinv hs rep sd sa k hk ha
  have hf := hinv.format_legal hs.2
  have hexec := fun hadm => exec_productResult (i := .muli rep sd sa k) (sd := sd) hinv hs rfl
    (opMuli_eq_productResult hf ha hk hadm)
  refine ⟨fun hadm => (hexec hadm).1, fun hadm => ?_, fun hadm hx => ⟨?_, (hexec hadm).2 hx⟩⟩
  · exact commandFaults_of_scalarResult (c := .mulOverflow) hs rfl (opMuli_of_not_admits ha hadm)
  · cases rep with
    | tc => rfl
    | sm => exact absurd ((inrangeSM_of_muliAdmits hf hadm).symm.trans hx) Bool.noConfusion

/-! ### Sums (R204, R205) -/

theorem maxInteger_nonneg (f : Format) (rep : Rep) : 0 ≤ maxInteger f rep := by
  have hpos : ∀ n, (0 : Int) ≤ 2 ^ n - 1 := fun n => by
    have := one_le_pow₀ (M₀ := Int) (a := 2) (by norm_num) (n := n)
    omega
  cases rep <;> exact mul_nonneg (hpos _) (by positivity)

/-- The maximum integer and its negative are in range (R156). -/
theorem inrangeRep_maxInteger {f : Format} (h : f.Legal) (rep : Rep) :
    inrangeRep f rep (maxInteger f rep) = true ∧ inrangeRep f rep (-maxInteger f rep) = true := by
  have hnonneg := maxInteger_nonneg f rep
  have hplace : (0 : Int) < 2 ^ f.f := by positivity
  obtain ⟨-, ⟨hi, -⟩, -, -, hf⟩ := h
  cases rep with
  | sm =>
    have hmax : maxInteger f .sm = 2 ^ f.t - 2 ^ f.f := by
      rw [maxInteger, sub_mul, one_mul, ← pow_add, add_comm, hf]
    rw [hmax] at hnonneg ⊢
    exact ⟨decide_eq_true ⟨by omega, by omega⟩, decide_eq_true ⟨by omega, by omega⟩⟩
  | tc =>
    have hmax : maxInteger f .tc = 2 ^ (f.t - 1) - 2 ^ f.f := by
      rw [maxInteger, sub_mul, one_mul, ← pow_add, show f.i - 1 + f.f = f.t - 1 by omega]
    rw [hmax] at hnonneg ⊢
    exact ⟨decide_eq_true ⟨by omega, by omega⟩, decide_eq_true ⟨by omega, by omega⟩⟩

/-- A saturated sum holds the value of R204, and says whether it was out of range. -/
theorem saturate_spec {f : Format} (h : f.Legal) (rep : Rep) (v : Int) :
    HoldsNumber f rep (saturate f rep v).value (saturated f rep v) ∧ (saturate f rep v).mcarries = 0 ∧
      (saturate f rep v).saturated = !inrangeRep f rep v := by
  obtain ⟨hmax, hmin⟩ := inrangeRep_maxInteger h rep
  by_cases hv : inrangeRep f rep v = true
  · rw [saturate, saturated, if_pos hv, if_pos hv, hv]
    exact ⟨holdsNumber_encRep h hv, rfl, rfl⟩
  · rw [saturate, saturated, if_neg hv, if_neg hv, Bool.eq_false_of_not_eq_true hv]
    refine ⟨?_, rfl, rfl⟩
    dsimp only [clampRep]
    split
    · rw [one_mul]
      exact holdsNumber_encRep h hmax
    · rw [neg_one_mul]
      exact holdsNumber_encRep h hmin

/-- A command that writes a saturated sum (R204, R205). -/
theorem exec_saturate {s : State} (hinv : s.Inv) (hs : s.Ready) {i : Instr} {sd : SReg} {rep : Rep} {v : Int}
    {y : Except Cause Result} (hrule : commandRule i s.accept = scalarResult sd y s.accept)
    (hy : y = .ok (saturate s.format rep v)) :
    ∃ t, exec i s = .next t ∧
      t = { s with
        cmdcnt := s.cmdcnt + 1, sregs := t.sregs,
        acarry := if inrangeRep s.format rep v = true then s.acarry else s.acarry + 1 } ∧
      SregHolds s t sd rep (saturated s.format rep v) := by
  obtain ⟨hvalue, hm, hsat⟩ := saturate_spec (hinv.format_legal hs.2) rep v
  obtain ⟨t, ht, heq, hholds⟩ := exec_scalarResult hinv hs hrule hy hvalue
  refine ⟨t, ht, ?_, hholds⟩
  rw [heq, hm, hsat]
  cases inrangeRep s.format rep v <;> simp

theorem addSub_spec {s : State} (hinv : s.Inv) (hs : s.Ready) {rep : Rep} (sd : SReg) {sa sb : SReg}
    (ha : validRep s.format rep (s.sregAt sa) = true) (hb : validRep s.format rep (s.sregAt sb) = true) :
    ∀ e ∈ [(Instr.add rep sd sa sb, xRep s.format rep (s.sregAt sa) + xRep s.format rep (s.sregAt sb)),
        (.sub rep sd sa sb, xRep s.format rep (s.sregAt sa) - xRep s.format rep (s.sregAt sb))],
      ∃ t, exec e.1 s = .next t ∧
        t = { s with
          cmdcnt := s.cmdcnt + 1, sregs := t.sregs,
          acarry := if inrangeRep s.format rep e.2 = true then s.acarry else s.acarry + 1 } ∧
        SregHolds s t sd rep (saturated s.format rep e.2) := by
  simp only [List.forall_mem_cons]
  exact ⟨exec_saturate hinv hs rfl (opAdd_of_valid ha hb), exec_saturate hinv hs rfl (opSub_of_valid ha hb), nofun⟩

/-- Settles O40: both commands write a saturated exact result. -/
theorem addSubSaturate : Obligations.AddSubSaturate := fun _ hinv hs _ sd _ _ ha hb => addSub_spec hinv hs sd ha hb

/-! ### Loads and copies (R206 to R208, R211) -/

theorem holdsNumber_zero {f : Format} (h : f.Legal) (rep : Rep) : HoldsNumber f rep (encSM f 0) 0 := by
  have hzero := holdsNumber_encRep h (inrangeRep_zero f rep)
  rwa [show encRep f rep 0 = encSM f 0 from (encRep_zero f rep).trans (encRep_zero f .sm).symm] at hzero

theorem holdsNumber_maxInteger {f : Format} (h : f.Legal) (rep : Rep) :
    HoldsNumber f rep (clampRep f rep 1) (maxInteger f rep) := by
  rw [clampRep, one_mul]
  exact holdsNumber_encRep h (inrangeRep_maxInteger h rep).1

/-- The integers k whose value k is representable (R208). -/
theorem inrangeRep_scaled {f : Format} (h : f.Legal) (rep : Rep) (k : Int) : inrangeRep f rep (k * 2 ^ f.f) = true ↔
    if rep = .sm then (k.natAbs : Int) < 2 ^ f.i else -(2 : Int) ^ (f.i - 1) ≤ k ∧ k < 2 ^ (f.i - 1) := by
  have hplace : (0 : Int) < 2 ^ f.f := by positivity
  obtain ⟨-, ⟨hi, -⟩, -, -, hf⟩ := h
  cases rep with
  | sm =>
    have ht : (2 : Int) ^ f.t = 2 ^ f.i * 2 ^ f.f := by rw [← pow_add, add_comm, hf]
    simp only [inrangeRep, inrangeSM, decide_eq_true_iff, ht, if_true, Int.natCast_natAbs, abs_lt, ← neg_mul,
      mul_lt_mul_iff_left₀ hplace]
  | tc =>
    have ht : (2 : Int) ^ (f.t - 1) = 2 ^ (f.i - 1) * 2 ^ f.f := by
      rw [← pow_add, show f.i - 1 + f.f = f.t - 1 by omega]
    simp only [inrangeRep, inrange2C, decide_eq_true_iff, ht, reduceCtorEq, if_false, ← neg_mul,
      mul_lt_mul_iff_left₀ hplace, mul_le_mul_iff_left₀ hplace]

/-- `loadScaled` of an integer in range writes it, of another raises the fault (R172, R208). -/
theorem exec_loadScaled {s : State} (hinv : s.Inv) (hs : s.Ready) {i : Instr} {rep : Rep} {sd : SReg} {x : Int} {c : Cause}
    (hrule : commandRule i s.accept = loadScaled rep sd x c s.accept) :
    (inrangeRep s.format rep x = true → ∃ t, exec i s = .next t ∧
      t = { s with cmdcnt := s.cmdcnt + 1, sregs := t.sregs } ∧ SregHolds s t sd rep x) ∧
    (inrangeRep s.format rep x = false → CommandFaults i s c.code 0xFFFFFFFF) := by
  refine ⟨fun hx => ?_, fun hx => commandFaults_unlaned hs (hrule.trans (if_neg (by simp [hx])))⟩
  obtain ⟨t, ht, heq, hcopy⟩ := exec_writeSreg hinv hs (a := encRep s.format rep x) (hrule.trans (if_pos hx))
  exact ⟨t, ht, heq, hcopy.holds hinv hs (holdsNumber_encRep (hinv.format_legal hs.2) hx)⟩

/-- Settles O41: each load is one register write; the integers `LDI` takes are those whose scaled value is in range. -/
theorem loadsAndMovWriteTheDestination : Obligations.LoadsAndMovWriteTheDestination := by
  intro s hinv hs rep sd sa k
  have hf := hinv.format_legal hs.2
  have hfits := inrangeRep_scaled hf rep k
  obtain ⟨hload, hfault⟩ := exec_loadScaled (i := .ldi rep sd k) (c := .convRange) hinv hs rfl
  refine ⟨?_, ?_, fun h => hload (hfits.2 h), fun h => hfault ?_, exec_writeSreg hinv hs rfl⟩
  · obtain ⟨t, ht, heq, hcopy⟩ := exec_writeSreg (i := .ldz sd) (a := encSM s.format 0) hinv hs rfl
    exact ⟨t, ht, heq, hcopy.holds hinv hs (holdsNumber_zero hf .sm), hcopy.holds hinv hs (holdsNumber_zero hf .tc)⟩
  · obtain ⟨t, ht, heq, hcopy⟩ := exec_writeSreg (i := .ldmax rep sd) (a := clampRep s.format rep 1) hinv hs rfl
    exact ⟨t, ht, heq, hcopy.holds hinv hs (holdsNumber_maxInteger hf rep)⟩
  · exact Bool.eq_false_of_not_eq_true fun hx => h (hfits.1 hx)

/-! ### Compares (R209, R210) -/

/-- The highest unequal digit decides which of two sums of digits is less. -/
theorem sumBelow_digits_lt_of_digit_lt {b n k : Nat} {g g' : Nat → Nat} (hg : ∀ j, j < n → g j < 2 ^ b) (hk : k < n)
    (hlt : g k < g' k) (habove : ∀ j, k < j → j < n → g j = g' j) :
    sumBelow n (fun j => g j * 2 ^ (b * j)) < sumBelow n (fun j => g' j * 2 ^ (b * j)) := by
  induction n with
  | zero => omega
  | succ n ih =>
    rw [sumBelow_succ, sumBelow_succ]
    by_cases he : k = n
    · subst he
      have hlow : sumBelow k (fun j => g j * 2 ^ (b * j)) < 2 ^ (b * k) := sumBelow_digits_lt fun j hj => hg j (by omega)
      calc sumBelow k (fun j => g j * 2 ^ (b * j)) + g k * 2 ^ (b * k) < (g k + 1) * 2 ^ (b * k) := by
            rw [add_mul]; omega
        _ ≤ g' k * 2 ^ (b * k) := Nat.mul_le_mul_right _ hlt
        _ ≤ _ := Nat.le_add_left _ _
    · rw [habove n (by omega) (by omega)]
      exact Nat.add_lt_add_right (ih (fun j hj => hg j (by omega)) (by omega) fun j hj hj' => habove j hj (by omega)) _

theorem cell_lt_of_validSM {f : Format} {a : Number} (h : validSM f a = true) {k : Nat} (hk : k < f.l) :
    (a.cell k).toNat < 2 ^ f.b :=
  of_decide_eq_true (List.all_eq_true.1 h k (List.mem_range.2 hk))

/-- A scan from the top cell finds which magnitude is less. -/
theorem mag_lt_of_cell_lt {f : Format} {a b : Number} (ha : validSM f a = true) {k : Nat} (hk : k < f.l)
    (hlt : (a.cell k).toNat < (b.cell k).toNat)
    (habove : ∀ j, k < j → j < f.l → (a.cell j).toNat = (b.cell j).toNat) : mag f a < mag f b :=
  sumBelow_digits_lt_of_digit_lt (fun _ hj => cell_lt_of_validSM ha hj) hk hlt habove

/-- Settles O43: `CMPT` reads the top digit, and the scan from the top cell agrees with the compare of magnitudes. -/
theorem comparesWriteTheirFlag : Obligations.ComparesWriteTheirFlag := by
  intro s hinv hs sa
  refine ⟨fun rep ha => ?_, fun sb ha hb => ?_⟩
  · have hrule : commandRule (.cmpt rep sa) s.accept = .ok (s.accept.setGe (s.geThr rep (s.sregAt sa))) := if_pos ha
    rw [exec_of_rule_ok hs hrule]
    cases rep <;> rfl
  · have hrule : ∀ c, cmpCode (mag s.format (s.sregAt sa)) (mag s.format (s.sregAt sb)) = c →
        exec (.cmpm sa sb) s = .next { s with cmdcnt := s.cmdcnt + 1, cmp := c } := by
      rintro c rfl
      exact exec_of_rule_ok (i := .cmpm sa sb) hs (if_pos (Bool.and_eq_true_iff.2 ⟨ha, hb⟩))
    refine ⟨fun heq => hrule 0 ?_, fun k hk habove hlt => hrule 1 ?_, fun k hk habove hlt => hrule 2 ?_⟩
    · have hmag : mag s.format (s.sregAt sa) = mag s.format (s.sregAt sb) :=
        sumBelow_congr fun k hk => congrArg (· * 2 ^ (s.format.b * k)) (heq k hk)
      rw [cmpCode, if_pos hmag]
    · have hmag := mag_lt_of_cell_lt hb hk hlt fun j hj hj' => (habove j hj hj').symm
      rw [cmpCode, if_neg hmag.ne', if_pos hmag]
    · have hmag := mag_lt_of_cell_lt ha hk hlt habove
      rw [cmpCode, if_neg hmag.ne, if_neg hmag.not_gt]

/-! ### Properties the rules give (R212, R213) -/

/-- Rules whose answers differ in `MCARRY` only give commands whose next states differ in `MCARRY` and `FAULT_CMD` only. -/
theorem runCommand_next_of_sameAnswer {nc : Bool} (w w' : Word) {rule rule' : State → Except Raised State} {s : State}
    (h : (nc = true → s.configured = true) →
      SameAnswer (fun t u => u = { t with mcarry := u.mcarry }) (rule s.accept) (rule' s.accept)) :
    ∃ t u, runCommand nc w rule s = .next t ∧ runCommand nc w' rule' s = .next u ∧
      u = { t with mcarry := u.mcarry, faultCmd := u.faultCmd } := by
  unfold runCommand
  split_ifs with hv hc
  · exact ⟨_, _, rfl, rfl, rfl⟩
  · exact ⟨_, _, rfl, rfl, rfl⟩
  · have hsame := h fun hn => by simpa [hn] using hc
    generalize rule s.accept = x, rule' s.accept = y at hsame ⊢
    cases hsame with
    | error r => exact ⟨_, _, rfl, rfl, rfl⟩
    | ok hu => exact ⟨_, _, rfl, rfl, by rw [hu]⟩

/-- Products of the same value with other carries are written alike. -/
theorem scalarResult_productResult_sameAnswer (f : Format) (rep : Rep) (x : Int) (n m : Nat) (sd : SReg) (s : State) :
    SameAnswer (fun t u => u = { t with mcarry := u.mcarry }) (scalarResult sd (productResult f rep x n) s)
      (scalarResult sd (productResult f rep x m) s) := by
  by_cases hx : inrangeRep f rep x = true
  · rw [productResult_of_inrange n hx, productResult_of_inrange m hx]
    refine .ok ?_
    rw [State.countResult_eq, State.countResult_eq]
  · rw [productResult_of_not_inrange n hx, productResult_of_not_inrange m hx]
    exact .error _

/-- Settles O44: a square and a product of a register by itself are range checks of one value. -/
theorem squareIsMultiply : Obligations.SquareIsMultiply := by
  intro s hinv rep sd sa
  rw [exec_eq_runCommand, exec_eq_runCommand]
  refine runCommand_next_of_sameAnswer _ _ fun hc => ?_
  have hf := hinv.format_legal (hc rfl)
  by_cases ha : validRep s.format rep (s.sregAt sa) = true
  · have hsqr : commandRule (.sqr rep sd sa) s.accept = scalarResult sd (opSqr s.format rep (s.sregAt sa)) s.accept := rfl
    have hmul : commandRule (.mul rep sd sa sa) s.accept =
      scalarResult sd (opMul s.format rep (s.sregAt sa) (s.sregAt sa)) s.accept := rfl
    rw [hsqr, hmul, opSqr_eq_productResult hf ha, opMul_eq_productResult hf ha ha]
    exact scalarResult_productResult_sameAnswer _ _ _ _ _ _ _
  · have hsqr : commandRule (.sqr rep sd sa) s.accept = .error (.unlaned .operandInvalid) :=
      congrArg (scalarResult sd · s.accept) (operand_bind_of_invalid _ ha)
    have hmul : commandRule (.mul rep sd sa sa) s.accept = .error (.unlaned .operandInvalid) :=
      congrArg (scalarResult sd · s.accept) (operands_bind_of_invalid _ fun hv => ha hv.1)
    rw [hsqr, hmul]
    exact .error _

/-- A valid operand lies in its range (R146). -/
theorem inrangeRep_xRep {f : Format} (h : f.Legal) {rep : Rep} {a : Number} (ha : validRep f rep a = true) :
    inrangeRep f rep (xRep f rep a) = true := by
  obtain ⟨-, -, hsm, htc⟩ := operandsInRange f h
  cases rep with
  | sm => exact hsm a ha
  | tc => exact htc a

theorem saturated_of_inrange {f : Format} {rep : Rep} {v : Int} (h : inrangeRep f rep v = true) : saturated f rep v = v :=
  if_pos h

/-- Settles O46: the sum is in range, so it is the exact sum that `SUB` takes `sb`, which is not written, from. -/
theorem subUndoesAdd : Obligations.SubUndoesAdd := by
  intro s hinv hs rep sc sd sa sb hne ha hb hsum
  have hf := hinv.format_legal hs.2
  obtain ⟨t, ht, hteq, htc, -, htother⟩ := addSub_spec hinv hs sc ha hb _ (List.mem_cons_self ..)
  have htinv : t.Inv := hinv.exec ht
  have htready : t.Ready := by rw [hteq]; exact hs
  have htf : t.format = s.format := by rw [hteq]; rfl
  obtain ⟨hcv, hcx, -⟩ := htc
  have hsb : t.sregAt sb = s.sregAt sb := htother sb hne.symm
  obtain ⟨u, hu, -, ⟨huv, hux, husign⟩, -, -⟩ := addSub_spec (sa := sc) (sb := sb) htinv htready sd (by rw [htf]; exact hcv)
    (by rw [htf, hsb]; exact hb) _ (List.mem_cons_of_mem _ (List.mem_cons_self ..))
  rw [saturated_of_inrange hsum] at hcx
  rw [htf, hsb, hcx, add_sub_cancel_right, saturated_of_inrange (inrangeRep_xRep hf ha)] at hux husign
  rw [htf] at huv
  exact ⟨t, u, ht, hu, ⟨huv, hux, husign⟩, fun k hk => cell_eq_of_xRep_eq hf huv ha hux hk⟩

end Sys2Proof.Machine
end

section
/-! PROOFS. The codec commands (R170 to R176): conversions and the staging buffer move one integer between its forms, and the
queries answer what a scan of the cells below L finds. Settled here: O47, O48, O49, O50, O51. -/

namespace Sys2Proof.Machine

/-! ### Conversions (R170, R171) -/

/-- The 2C range lies in the SM range (R146). -/
theorem inrangeSM_of_inrange2C {f : Format} (h : f.Legal) {x : Int} (hx : inrange2C f x = true) : inrangeSM f x = true := by
  obtain ⟨hlo, hhi⟩ := of_decide_eq_true hx
  have hpow : (2 : Int) ^ f.t = 2 * 2 ^ (f.t - 1) := mod_cast h.two_pow_t
  have hpos : (0 : Int) < 2 ^ (f.t - 1) := by positivity
  exact decide_eq_true ⟨by omega, by omega⟩

/-- `FROMTC` of a valid operand writes its value in SM (R171). -/
theorem exec_fromtc {s : State} (hinv : s.Inv) (hs : s.Ready) (sd : SReg) {sa : SReg}
    (ha : valid2C s.format (s.sregAt sa) = true) : ∃ t, exec (.fromtc sd sa) s = .next t ∧
      t = { s with cmdcnt := s.cmdcnt + 1, sregs := t.sregs } ∧ SregHolds s t sd .sm (x2C s.format (s.sregAt sa)) := by
  have hf := hinv.format_legal hs.2
  obtain ⟨t, ht, heq, hcopy⟩ := exec_writeSreg (i := .fromtc sd sa) hinv hs (if_pos ha)
  have hrange := inrangeSM_of_inrange2C hf (inrangeRep_xRep (rep := .tc) hf ha)
  exact ⟨t, ht, heq, hcopy.holds hinv hs (holdsNumber_encRep (rep := .sm) hf hrange)⟩

/-- Settles O47: `TOTC` loads the SM value in 2C, and `FROMTC` loads the 2C value, whose range lies in that of SM. -/
theorem conversionsKeepTheValue : Obligations.ConversionsKeepTheValue := by
  intro s hinv hs sd sa
  refine ⟨fun ha => ?_, exec_fromtc hinv hs sd⟩
  obtain ⟨hload, hfault⟩ := exec_loadScaled (i := .totc sd sa) (c := .convOverflow) hinv hs (if_pos ha)
  refine ⟨fun hx => ?_, hfault⟩
  obtain ⟨t, ht, heq, hholds⟩ := hload hx
  obtain ⟨⟨htv, htx, -⟩, -⟩ := id hholds
  have htf : t.format = s.format := by rw [heq]; rfl
  refine ⟨t, ht, heq, hholds, fun se => ?_⟩
  obtain ⟨u, hu, -, huholds⟩ := exec_fromtc (s := t) (hinv.exec ht) (by rw [heq]; exact hs) se (by rw [htf]; exact htv)
  rw [htf, show x2C s.format (t.sregAt sd) = _ from htx] at huholds
  exact ⟨u, hu, huholds⟩

/-! ### The staging buffer (R172, R173) -/

/-- The staged integer, shifted exactly (R172). -/
def State.alignedValue (s : State) : Int :=
  if s.rawSign = true then (alignedMagnitude s.rawValue (s.rawExp.toInt + s.format.f) : Int)
  else -(alignedMagnitude s.rawValue (s.rawExp.toInt + s.format.f) : Int)

/-- The capped shift gives the exact value, but where neither is in range. -/
theorem splitValue_eq_or (s : State) (ht : 1 ≤ s.format.t) (rep : Rep) : s.splitValue = s.alignedValue ∨
    (inrangeRep s.format rep s.splitValue = false ∧ inrangeRep s.format rep s.alignedValue = false) := by
  simp only [State.splitValue, State.alignedValue]
  rcases splitMagnitude_inrange s.format ht rep s.rawValue (s.rawExp.toInt + s.format.f) with h | h
  · exact .inl (by rw [h])
  · obtain ⟨⟨hp, hn⟩, ⟨hp', hn'⟩, -⟩ := by simpa only [List.forall_mem_cons] using h
    right
    split
    · exact ⟨hp, hp'⟩
    · exact ⟨hn, hn'⟩

/-- `SPLIT` loads the staged integer (R172). -/
theorem exec_split {s : State} (hinv : s.Inv) (hs : s.Ready) (rep : Rep) (sd : SReg) :
    (inrangeRep s.format rep s.alignedValue = true → ∃ t, exec (.split rep sd) s = .next t ∧
      t = { s with cmdcnt := s.cmdcnt + 1, sregs := t.sregs } ∧ SregHolds s t sd rep s.alignedValue) ∧
    (inrangeRep s.format rep s.alignedValue = false → CommandFaults (.split rep sd) s 0x0A 0xFFFFFFFF) := by
  have hf := hinv.format_legal hs.2
  have ht : 1 ≤ s.format.t := by
    have := hf.t_eq
    have := hf.b_le
    omega
  have hload := exec_loadScaled (i := .split rep sd) (x := s.splitValue) (c := .convRange) hinv hs rfl
  rcases splitValue_eq_or s ht rep with heq | ⟨hsplit, haligned⟩
  · rw [← heq]
    exact hload
  · exact ⟨fun hx => absurd (haligned.symm.trans hx) Bool.noConfusion, fun _ => hload.2 hsplit⟩

/-- Settles O48: the model's shift and the exact one give one value, or are both out of range. -/
theorem splitAlignsTheStagedValue : Obligations.SplitAlignsTheStagedValue := fun _ => exec_split

/-- T is far below the 4096 bits of `RAW` (R9, R42). -/
theorem Format.Legal.t_le {f : Format} (h : f.Legal) : f.t ≤ 2016 := by
  obtain ⟨hb, -, hl, ht, -⟩ := h
  rw [ht]
  calc f.l * f.b ≤ 63 * 32 := Nat.mul_le_mul (by omega) (by omega)

theorem toNat_getElem_rawOf (u : Nat) (w : Fin 64) : (rawOf u)[w].toNat = u / 2 ^ (64 * w.val) % 2 ^ 64 := by
  simp [rawOf]

/-- The words of an integer below 2^4096 stage that integer (R42). -/
theorem rawValue_writeRaw (s : State) {x : Int} (hx : x.natAbs < 2 ^ (64 * 64)) : (s.writeRaw x).rawValue = x.natAbs := by
  have hword : ∀ w, w < 64 → ((s.writeRaw x).raw.toList.getD w 0).toNat * 2 ^ (64 * w) =
      natDigit 64 x.natAbs w * 2 ^ (64 * w) := fun w hw => by
    have hget : (s.writeRaw x).raw.toList.getD w 0 = (rawOf x.natAbs)[(⟨w, hw⟩ : Fin 64)] := by
      simp [State.writeRaw, hw]
    rw [hget, toNat_getElem_rawOf, natDigit]
  rw [State.rawValue, sumBelow_congr hword, sumBelow_natDigit, Nat.mod_eq_of_lt hx]

theorem toInt_rawExp_writeRaw (s : State) (x : Int) (hf : s.format.f < 2 ^ 31) :
    (s.writeRaw x).rawExp.toInt = -(s.format.f : Int) := by
  rw [State.writeRaw_rawExp, BitVec.toInt_ofInt]
  exact Int.bmod_eq_of_le (by omega) (by omega)

/-- Settles O49: the words of `RAW` are the digits of the magnitude, and the shift of `SPLIT` after it is 0. -/
theorem joinStagesTheValue : Obligations.JoinStagesTheValue := by
  intro s hinv hs rep sa ha x
  have hf := hinv.format_legal hs.2
  have htle := hf.t_le
  have habs : x.natAbs < 2 ^ (64 * 64) :=
    lt_of_lt_of_le (natAbs_xRep_lt hf ha) (pow_le_pow_right₀ one_le_two (by omega))
  have hfrac : s.format.f < 2 ^ 31 := by
    have := hf.f_add_i
    omega
  have ht : exec (.join rep sa) s = .next (s.accept.writeRaw x) := exec_of_rule_ok (i := .join rep sa) hs (if_pos ha)
  have hraw : (s.accept.writeRaw x).rawValue = x.natAbs := rawValue_writeRaw s.accept habs
  have hexp : (s.accept.writeRaw x).rawExp.toInt = -(s.format.f : Int) := toInt_rawExp_writeRaw s.accept x hfrac
  refine ⟨_, ht, rfl, toNat_getElem_rawOf x.natAbs, hraw, hexp, fun sd => ?_⟩
  have hshift : (s.accept.writeRaw x).rawExp.toInt + ((s.accept.writeRaw x).format.f : Int) = 0 :=
    hexp ▸ neg_add_cancel (s.format.f : Int)
  have hvalue : (s.accept.writeRaw x).alignedValue = x := by
    rw [State.alignedValue, hshift, hraw, State.writeRaw_rawSign]
    simp only [alignedMagnitude, le_refl, if_true, Int.toNat_zero, pow_zero, mul_one, decide_eq_true_eq]
    clear habs
    split <;> omega
  have hsplit := (exec_split (hinv.exec ht) hs rep sd).1
  rw [hvalue] at hsplit
  obtain ⟨u, hu, -, hholds⟩ := hsplit (inrangeRep_xRep hf ha)
  exact ⟨u, hu, hholds⟩

/-! ### Queries (R174 to R176) -/

theorem validSM_iff (f : Format) (a : Number) : validSM f a = true ↔ ∀ k, k < f.l → (a.cell k).toNat < 2 ^ f.b := by
  simp [validSM]

/-- The top cell of a valid 2C operand is below the sign place, or as far from 2^64 (R143). -/
theorem signExtended_iff {f : Format} (h : f.Legal) {c : Nat} (hc : c < 2 ^ 64) :
    (c / 2 ^ (f.b - 1) = 0 ∨ c / 2 ^ (f.b - 1) = 2 ^ (64 - (f.b - 1)) - 1) ↔
      c < 2 ^ (f.b - 1) ∨ 2 ^ 64 - 2 ^ (f.b - 1) ≤ c := by
  obtain ⟨hb | hb, -⟩ := h <;> (simp only [hb]; omega)

theorem valid2C_iff {f : Format} (h : f.Legal) (a : Number) : valid2C f a = true ↔
    (∀ k, k + 1 < f.l → (a.cell k).toNat < 2 ^ f.b) ∧
      ((a.cell (f.l - 1)).toNat < 2 ^ (f.b - 1) ∨ 2 ^ 64 - 2 ^ (f.b - 1) ≤ (a.cell (f.l - 1)).toNat) := by
  rw [← signExtended_iff h (a.cell (f.l - 1)).isLt]
  simp only [valid2C, Bool.and_eq_true, List.all_eq_true, List.mem_range, decide_eq_true_eq, Bool.or_eq_true, beq_iff_eq,
    Nat.lt_sub_iff_add_lt]

/-- Settles O50: `CHK` writes the validator, and both validators are the ones written out. -/
theorem chkAnswersValidity : Obligations.ChkAnswersValidity := by
  intro s hinv hs sa v
  have hf := hinv.format_legal hs.2
  have hrule : ∀ rep, v = validRep s.format rep (s.sregAt sa) →
      exec (.chk rep sa) s = .next { s with cmdcnt := s.cmdcnt + 1, valid := v } := by
    rintro rep rfl
    exact exec_of_rule_ok (i := .chk rep sa) hs rfl
  exact ⟨fun h => hrule .sm (Bool.eq_iff_iff.2 (h.trans (validSM_iff s.format _).symm)),
    fun h => hrule .tc (Bool.eq_iff_iff.2 (h.trans (valid2C_iff hf _).symm))⟩

/-- The scan down from the top cell stops at the highest nonzero one (R175). -/
theorem limbLen_eq {a : Number} {l n : Nat} (hn : n ≤ l) (hzero : ∀ k, n ≤ k → k < l → a.cell k = 0)
    (hlast : 0 < n → a.cell (n - 1) ≠ 0) : limbLen a l = n := by
  induction l with
  | zero => rw [limbLen]; omega
  | succ l ih =>
    rw [limbLen]
    by_cases he : n = l + 1
    · subst he
      exact if_pos (hlast (by omega))
    · rw [if_neg (not_not.2 (hzero l (by omega) (by omega)))]
      exact ih (by omega) fun k hk hk' => hzero k hk (by omega)

/-- The scan up from cell 0 stops at the lowest nonzero one (R176). -/
theorem tzLimb_eq {a : Number} {l n : Nat} (hn : n ≤ l) (hzero : ∀ k, k < n → a.cell k = 0)
    (hnext : n < l → a.cell n ≠ 0) : tzLimb a l = n := by
  have hlow : ((List.range n).find? fun k => a.cell k != 0) = none :=
    List.find?_eq_none.2 fun k hk => by simp [hzero k (List.mem_range.1 hk)]
  obtain ⟨m, rfl⟩ := Nat.exists_eq_add_of_le hn
  rw [tzLimb, List.range_add, List.find?_append, hlow, Option.none_or]
  cases m with
  | zero => rfl
  | succ m =>
    have hnext' : (a.cell (n + 0) != 0) = true := by simpa using hnext (by omega)
    rw [List.range_succ_eq_map, List.map_cons, List.find?_cons_of_pos (p := fun k => a.cell k != 0) hnext']
    rfl

/-- Settles O51: both scans stop where the statement says. -/
theorem limbQueriesCountZeroLimbs : Obligations.LimbQueriesCountZeroLimbs := by
  intro s hs sa n hn
  refine ⟨fun hzero hlast => exec_of_rule_ok (i := .limblen sa) hs ?_,
    fun hzero hnext => exec_of_rule_ok (i := .tzlimb sa) hs ?_⟩
  · exact congrArg (fun m => Except.ok (s.accept.setRes m)) (limbLen_eq hn hzero hlast)
  · exact congrArg (fun m => Except.ok (s.accept.setRes m)) (tzLimb_eq hn hzero hnext)

end Sys2Proof.Machine
end

section
/-! PROOFS. The control commands: `CONSTRUCT` with its checks (R159 to R161), `ORST` (R282), and `UPDDONE` lane by lane (R283), a
loop over distinct lanes each pass of which reads and writes its own lane. Settled here: O52, O53, O54. -/

namespace Sys2Proof.Machine

/-! ### CONSTRUCT (R160) -/

/-- T is the only multiple of B in its range (R159). -/
theorem adjustedBits_eq {b i fq l : Nat} (hlo : i + fq ≤ l * b) (hhi : l * b < i + fq + b) :
    adjustedBits b i fq = l * b := by
  have hb : 0 < b := by omega
  have hdiv : (i + fq + b - 1) / b = l := by
    rw [Nat.div_eq_iff hb]
    omega
  rw [adjustedBits, hdiv]

/-- The rule of `CONSTRUCT` with its values named. -/
theorem ruleConstruct_accept (s : State) {l : Nat} (hb : 0 < s.params.limbBits)
    (ht : adjustedBits s.params.limbBits s.cfgBbp.toNat s.cfgFrac.toNat = l * s.params.limbBits) :
    ruleConstruct s.accept =
      if s.cfgBbp.toNat = 0 ∨ s.cfgBbp.toNat > 32 then .error (.unlaned .formatViolation)
      else if l > s.params.lMax then .error (.unlaned .formatViolation)
      else if s.cfgThresh.toNat > 2 ^ s.cfgBbp.toNat - 1 then .error (.unlaned .thresholdRange)
      else if s.cfgVcount.toNat = 0 ∨ s.cfgVcount.toNat % 4 ≠ 0 ∨ s.cfgVcount.toNat > s.params.vcap then
        .error (.unlaned .valuecountAlign)
      else .ok (s.accept.configure s.cfgBbp.toNat (l * s.params.limbBits - s.cfgBbp.toNat) l (l * s.params.limbBits)
        s.cfgThresh.toNat s.cfgVcount.toNat) := by
  have hdiv : adjustedBits s.params.limbBits s.cfgBbp.toNat s.cfgFrac.toNat / s.params.limbBits = l := by
    rw [ht, Nat.mul_div_cancel _ hb]
  rw [← ht, ← hdiv]
  rfl

/-- `CONSTRUCT` runs whether or not the block is configured (R303). -/
theorem commandFaults_construct {s : State} (hs : s.faultV = false) {c : Cause}
    (h : ruleConstruct s.accept = .error (.unlaned c)) : CommandFaults .construct s c.code 0xFFFFFFFF := by
  rw [CommandFaults, exec_eq_runCommand,
    runCommand_error (nc := needsConfig .construct) (rule := commandRule .construct) hs (by simp [needsConfig]) h]
  rfl

theorem exec_construct_of_ok {s u : State} (hs : s.faultV = false) (h : ruleConstruct s.accept = .ok u) :
    exec .construct s = .next u := by
  rw [exec_eq_runCommand]
  exact runCommand_ok (nc := needsConfig .construct) (rule := commandRule .construct) hs (by simp [needsConfig]) h

/-- After `orchestrator_reset` no escape flag is set and every count is 0 (R282). -/
theorem State.escAt_orchestratorReset (s : State) (n m : Nat) : (s.orchestratorReset n).escAt m = false :=
  getD_replicate_false _ _

theorem State.countAt_orchestratorReset (s : State) (n m : Nat) : (s.orchestratorReset n).countAt m = 0 := by
  simp only [State.countAt, State.orchestratorReset_count, List.getD_eq_getElem?_getD, List.getElem?_replicate]
  split <;> rfl

theorem State.inplayAt_orchestratorReset_of_le (s : State) {n : Nat} (hn : n ≤ s.params.vcap) (g : Nat) :
    (s.orchestratorReset n).inplayAt g = decide (g < n / 4) := by
  rw [State.inplayAt_orchestratorReset, decide_eq_decide]
  omega

theorem State.sign_laneAt_configure (s : State) (i f l t th n : Nat) (v : VReg) {m : Nat} (hm : m < s.params.vcap) :
    ((s.configure i f l t th n).laneAt v m).sign = true := by
  rw [State.laneAt, State.vregAt_configure, List.getD_replicate _ hm]
  rfl

/-- Settles O52: the checks are the branches of the rule, and what a successful one writes is `State.configure`. -/
theorem constructChecksAndConfigures : Obligations.ConstructChecksAndConfigures := by
  intro s hinv hs i fq th n b t l hi hfq hth hn hb ht hlo hhi
  subst hi hfq hth hn hb ht
  obtain ⟨hp, -⟩ := hinv
  have hbpos : 0 < s.params.limbBits := by omega
  have hrule := ruleConstruct_accept s hbpos (adjustedBits_eq hlo hhi)
  refine ⟨fun hbad => commandFaults_construct (c := .formatViolation) hs ?_,
    fun hok hbad => commandFaults_construct (c := .thresholdRange) hs ?_,
    fun hok hok' hbad => commandFaults_construct (c := .valuecountAlign) hs ?_, fun hok hok' hok'' => ?_⟩
  · rw [hrule]
    by_cases hbits : s.cfgBbp.toNat = 0 ∨ s.cfgBbp.toNat > 32
    · rw [if_pos hbits]
    · rw [if_neg hbits, if_pos (by omega)]
  · rw [hrule, if_neg (by omega), if_neg (by omega), if_pos hbad]
  · rw [hrule, if_neg (by omega), if_neg (by omega), if_neg hok', if_pos hbad]
  · rw [if_neg (by omega), if_neg (by omega), if_neg hok', if_neg hok''] at hrule
    have hpow : 0 < 2 ^ s.cfgBbp.toNat := by positivity
    have hlpos : 1 ≤ l := Nat.pos_of_ne_zero fun h0 => by
      rw [h0, zero_mul] at hlo
      omega
    have hcfg : Configurable s.accept.params s.cfgBbp.toNat (l * s.params.limbBits - s.cfgBbp.toNat) l
        (l * s.params.limbBits) s.cfgThresh.toNat s.cfgVcount.toNat :=
      ⟨hp, by omega, ⟨hlpos, by rw [State.accept_params]; omega⟩, rfl, by omega, by omega,
        by rw [State.accept_params]; omega⟩
    have hcap : s.cfgVcount.toNat ≤ s.params.vcap := hcfg.lanes.2.2
    refine ⟨_, exec_construct_of_ok hs hrule, rfl, format_configure hcfg, toNat_threshMsl_configure hcfg,
      toNat_vcount_configure hcfg, fun r k => ⟨(cell_configure _ _ _ _ _ _ _ k).1 r, ?_⟩,
      fun v m k => ⟨(cell_configure _ _ _ _ _ _ _ k).2 v m, fun hm => State.sign_laneAt_configure _ _ _ _ _ _ _ v hm⟩,
      s.accept.inplayAt_orchestratorReset_of_le hcap,
      fun m => ⟨s.accept.doneAt_orchestratorReset s.cfgVcount.toNat m,
        s.accept.escAt_orchestratorReset s.cfgVcount.toNat m, s.accept.countAt_orchestratorReset s.cfgVcount.toNat m⟩⟩
    rw [State.sregAt_configure]
    rfl

/-! ### ORST (R282) -/

/-- In a configured block `VCOUNT` is at least 4 (R62). -/
theorem State.Inv.four_le_vcount {s : State} (hinv : s.Inv) (hc : s.configured = true) : 4 ≤ s.vcount.toNat := by
  obtain ⟨-, -, ⟨-, hconf⟩, -⟩ := hinv
  obtain ⟨-, -, -, -, hv, -⟩ := hconf hc
  exact hv

/-- Settles O53: `orchestrator_reset(VCOUNT)`, and `VCOUNT` has at least one group. -/
theorem orstStartsARun : Obligations.OrstStartsARun := by
  intro s hinv hs
  have hvcount := hinv.four_le_vcount hs.2
  have hcap : s.vcount.toNat ≤ s.params.vcap := hinv.2.2.1.vcount_le
  have hinplay : ∀ g, (s.accept.orchestratorReset s.vcount.toNat).inplayAt g = decide (g < s.vcount.toNat / 4) :=
    s.accept.inplayAt_orchestratorReset_of_le hcap
  refine ⟨_, exec_of_rule_ok (i := .orst) hs rfl, rfl, hinplay,
    fun n => ⟨s.accept.doneAt_orchestratorReset _ n, s.accept.escAt_orchestratorReset _ n,
      s.accept.countAt_orchestratorReset _ n⟩, ?_, ?_⟩
  · refine Bool.eq_false_of_not_eq_true fun hempty => ?_
    have hfirst := ((State.ipempty_iff _).1 hempty 0).symm.trans (hinplay 0)
    rw [eq_comm, decide_eq_false_iff_not] at hfirst
    omega
  · exact (State.dsum_eq_zero_iff _).2 fun n _ => s.accept.doneAt_orchestratorReset _ n

/-! ### Loops over distinct lanes -/

/-- What a loop leaves at a lane it does not pass. -/
theorem foldl_read_of_notMem {σ α : Type} {g : σ → Nat → σ} {read : σ → Nat → α}
    (hother : ∀ s n m, m ≠ n → read (g s n) m = read s m) {ns : List Nat} {m : Nat} (hm : m ∉ ns) (s : σ) :
    read (ns.foldl g s) m = read s m := by
  induction ns generalizing s with
  | nil => rfl
  | cons n ns ih =>
    obtain ⟨hne, hrest⟩ := List.ne_and_not_mem_of_not_mem_cons hm
    rw [List.foldl_cons, ih hrest, hother s n m hne]

/-- What a loop over distinct lanes leaves at a lane it passes: `val` of the lane at the start, if each pass gives it at its lane
and changes nothing that the value at another lane (with the condition P it needs) is made of. -/
theorem foldl_read_of_mem {σ α : Type} {g : σ → Nat → σ} {read val : σ → Nat → α} {P : σ → Nat → Prop}
    (hother : ∀ s n m, m ≠ n → read (g s n) m = read s m) (hself : ∀ s n, P s n → read (g s n) n = val s n)
    (hval : ∀ s n m, m ≠ n → val (g s n) m = val s m) (hP : ∀ s n m, P s m → P (g s n) m) {ns : List Nat}
    (hnodup : ns.Nodup) {m : Nat} (hm : m ∈ ns) {s : σ} (hs : P s m) : read (ns.foldl g s) m = val s m := by
  induction ns generalizing s with
  | nil => simp at hm
  | cons n ns ih =>
    obtain ⟨hn, hrest⟩ := List.nodup_cons.1 hnodup
    rw [List.foldl_cons]
    by_cases he : m = n
    · subst he
      rw [foldl_read_of_notMem hother hn, hself s m hs]
    · rw [ih hrest ((List.mem_cons.1 hm).resolve_left he) (hP s n m hs), hval s n m he]

/-! ### UPDDONE (R283) -/

theorem getD_set_self {α : Type} {xs : List α} {n : Nat} (hn : n < xs.length) (x d : α) : (xs.set n x).getD n d = x := by
  simp [List.getD_eq_getElem?_getD, hn]

theorem getD_set_of_ne {α : Type} (xs : List α) {n m : Nat} (h : m ≠ n) (x d : α) :
    (xs.set n x).getD m d = xs.getD m d := by
  simp [List.getD_eq_getElem?_getD, List.getElem?_set_ne h.symm]

section
variable (rep : Rep) (va : VReg)

/-- Whether a lane is done after its pass: it was, it escapes, or its count reaches `TARGET`. -/
def State.doneAfter (s : State) (n : Nat) : Bool :=
  s.doneAt n || s.geThr rep (s.laneAt va n) || decide (s.target.toNat ≤ (s.countAt n + 1).toNat)

/-- The lane has its flags and its count. -/
abbrev State.HasLane (s : State) (n : Nat) : Prop := n < s.esc.length ∧ n < s.count.length ∧ n < s.done.length

theorem State.HasLane.updateLane {s : State} {m : Nat} (h : s.HasLane m) (n : Nat) :
    (State.updateLane rep va s n).HasLane m := by
  obtain ⟨he, hc, hd⟩ := h
  refine ⟨by simpa [State.updateLane] using he, by simpa [State.updateLane] using hc, ?_⟩
  simp only [State.updateLane]
  split <;> simpa using hd

theorem State.escAt_updateLane_of_ne (s : State) (n m : Nat) (h : m ≠ n) :
    (State.updateLane rep va s n).escAt m = s.escAt m :=
  getD_set_of_ne s.esc h _ _

theorem State.doneAt_updateLane_of_ne (s : State) (n m : Nat) (h : m ≠ n) :
    (State.updateLane rep va s n).doneAt m = s.doneAt m := by
  simp only [State.updateLane, State.doneAt]
  split
  · exact getD_set_of_ne s.done h _ _
  · rfl

theorem State.doneAt_updateLane_self {s : State} {n : Nat} (h : s.HasLane n) :
    (State.updateLane rep va s n).doneAt n = s.doneAfter rep va n := by
  obtain ⟨-, -, hd⟩ := h
  have hset : (s.done.set n true).getD n false = true := getD_set_self hd _ _
  simp only [State.updateLane, State.doneAt, State.doneAfter]
  by_cases hc : (s.geThr rep (s.laneAt va n) || decide (s.target.toNat ≤ (s.countAt n + 1).toNat)) = true
  · rw [if_pos hc, hset, Bool.or_assoc, hc, Bool.or_true]
  · rw [if_neg hc, Bool.or_assoc, Bool.eq_false_of_not_eq_true hc, Bool.or_false]

theorem State.doneAfter_updateLane_of_ne (s : State) (n m : Nat) (h : m ≠ n) :
    (State.updateLane rep va s n).doneAfter rep va m = s.doneAfter rep va m := by
  rw [State.doneAfter, State.doneAt_updateLane_of_ne rep va s n m h, State.countAt_updateLane_of_ne rep va s h]
  rfl

/-- The loop of `UPDDONE` writes escape flags, counts and done flags and nothing else. -/
theorem State.foldl_updateLane_frame (s : State) (ns : List Nat) : ns.foldl (State.updateLane rep va) s =
    { s with
      esc := (ns.foldl (State.updateLane rep va) s).esc, count := (ns.foldl (State.updateLane rep va) s).count
      done := (ns.foldl (State.updateLane rep va) s).done } := by
  induction ns generalizing s with
  | nil => rfl
  | cons n ns ih =>
    rw [List.foldl_cons, ih]
    rfl

theorem State.escAt_updateLane_self {s : State} {n : Nat} (h : s.HasLane n) :
    (State.updateLane rep va s n).escAt n = s.geThr rep (s.laneAt va n) :=
  getD_set_self h.1 _ _

theorem State.countAt_updateLane_self {s : State} {n : Nat} (h : s.HasLane n) :
    (State.updateLane rep va s n).countAt n = s.countAt n + 1 :=
  getD_set_self h.2.1 _ _

/-- What the loop of `UPDDONE` leaves at a lane that it passes. -/
theorem State.foldl_updateLane_of_mem {s : State} {ns : List Nat} (hnodup : ns.Nodup) {m : Nat} (hm : m ∈ ns)
    (h : s.HasLane m) :
    (ns.foldl (State.updateLane rep va) s).escAt m = s.geThr rep (s.laneAt va m) ∧
      (ns.foldl (State.updateLane rep va) s).countAt m = s.countAt m + 1 ∧
      (ns.foldl (State.updateLane rep va) s).doneAt m = s.doneAfter rep va m := by
  have hP : ∀ (s : State) (n m : Nat), s.HasLane m → (State.updateLane rep va s n).HasLane m :=
    fun _ n _ h => State.HasLane.updateLane rep va h n
  refine ⟨?_, ?_, ?_⟩
  · exact foldl_read_of_mem (val := fun s m => s.geThr rep (s.laneAt va m)) (State.escAt_updateLane_of_ne rep va)
      (fun _ _ => State.escAt_updateLane_self rep va) (fun _ _ _ _ => rfl) hP hnodup hm h
  · exact foldl_read_of_mem (val := fun s m => s.countAt m + 1)
      (fun s n m hne => State.countAt_updateLane_of_ne rep va s hne) (fun _ _ => State.countAt_updateLane_self rep va)
      (fun s n m hne => congrArg (· + 1) (State.countAt_updateLane_of_ne rep va s hne)) hP hnodup hm h
  · exact foldl_read_of_mem (State.doneAt_updateLane_of_ne rep va) (fun _ _ => State.doneAt_updateLane_self rep va)
      (State.doneAfter_updateLane_of_ne rep va) hP hnodup hm h

theorem State.foldl_updateLane_of_notMem (s : State) {ns : List Nat} {m : Nat} (hm : m ∉ ns) :
    (ns.foldl (State.updateLane rep va) s).escAt m = s.escAt m ∧
      (ns.foldl (State.updateLane rep va) s).countAt m = s.countAt m ∧
      (ns.foldl (State.updateLane rep va) s).doneAt m = s.doneAt m :=
  ⟨foldl_read_of_notMem (State.escAt_updateLane_of_ne rep va) hm s,
    foldl_read_of_notMem (fun s _ _ hne => State.countAt_updateLane_of_ne rep va s hne) hm s,
    foldl_read_of_notMem (State.doneAt_updateLane_of_ne rep va) hm s⟩

theorem ruleUpddone_of_valid {s : State}
    (h : ∀ n, s.isActive n = true → validRep s.format rep (s.laneAt va n) = true) :
    ruleUpddone rep va s = .ok (s.activeLanes.foldl (State.updateLane rep va) s).dropRetiredGroups := by
  have hok : validateLanes s.format rep (s.laneAt va) s.activeLanes = .ok () :=
    (validateLanes_ok _ _ _ _).2 fun n hn => h n ((s.mem_activeLanes n).1 hn)
  rw [ruleUpddone, hok]

end

/-- An active lane exists (R240). -/
theorem State.Inv.lt_vcap_of_isActive {s : State} (hinv : s.Inv) {n : Nat} (hn : s.isActive n = true) :
    n < s.params.vcap := by
  have hlt := ((s.isActive_iff n).1 hn).1
  have hcap := hinv.2.2.1.vcount_le
  omega

theorem State.Inv.hasLane {s : State} (hinv : s.Inv) {n : Nat} (hn : s.isActive n = true) : s.HasLane n := by
  have hlt := hinv.lt_vcap_of_isActive hn
  obtain ⟨-, ⟨-, -, -, hd, he, hc⟩, -⟩ := hinv
  exact ⟨by omega, by omega, by omega⟩

/-- Settles O54: the loop passes each active lane once, and groups leave by the done flags it left. -/
theorem upddoneLaneByLane : Obligations.UpddoneLaneByLane := by
  intro s hinv hs rep va hvalid
  have hmem := s.accept.mem_activeLanes
  have hframe := State.foldl_updateLane_frame rep va s.accept s.accept.activeLanes
  refine ⟨_, exec_of_rule_ok (i := .upddone rep va) hs (ruleUpddone_of_valid rep va (s := s.accept) hvalid), ?_,
    fun n hn => ?_, fun n hn => ?_, fun g => ?_⟩
  · rw [State.dropRetiredGroups, hframe]
    rfl
  · obtain ⟨he, hc, hd⟩ := State.foldl_updateLane_of_mem rep va (s := s.accept) s.accept.nodup_activeLanes
      ((hmem n).2 hn) (hinv.hasLane hn)
    have hnot : s.doneAt n = false := ((s.isActive_iff n).1 hn).2.2
    refine ⟨he, hc, ?_⟩
    rw [State.dropRetiredGroups_doneAt, State.dropRetiredGroups_escAt, State.dropRetiredGroups_countAt, hd, he, hc]
    simp [State.doneAfter, hnot]
  · exact State.foldl_updateLane_of_notMem rep va s.accept fun h => by
      rw [hmem] at h
      exact Bool.false_ne_true (hn.symm.trans h)
  · have hin : (s.accept.activeLanes.foldl (State.updateLane rep va) s.accept).inplayAt g = s.inplayAt g := by
      rw [hframe]
      rfl
    rw [State.inplayAt_dropRetiredGroups, Bool.and_eq_true, hin, Bool.not_eq_true', State.groupDone_eq_false_iff]
    rfl

end Sys2Proof.Machine
end

section
/-! PROOFS. The vector commands (R241 to R254): the common vector procedure commits one result to each active lane, so it is a
loop over distinct lanes like the one of `UPDDONE`; each statement is then about the result its operation gives on a lane. Settled
here: O55, O56, O57, O58, O59, O60. -/

namespace Sys2Proof.Machine

/-! ### Committing one lane (R241, R250) -/

/-- Everything that committing a lane's result changes. -/
theorem State.commitLane_eq (vd : VReg) (s : State) (n : Nat) (r : Result) : State.commitLane vd s (n, r) =
    { s with
      vregs := (s.writeLane vd n r.value).vregs, done := if r.saturated then s.done.set n true else s.done
      mcarry := s.mcarry + BitVec.ofNat 32 r.mcarries, acarry := if r.saturated then s.acarry + 1 else s.acarry } := by
  simp only [State.commitLane, State.countResult_eq]
  cases r.saturated <;> rfl

section
variable (vd : VReg) (res : Nat → Result)

/-- One pass of the committing loop, when the results are `res`. -/
def State.commitAt (s : State) (n : Nat) : State := State.commitLane vd s (n, res n)

theorem State.laneAt_commitAt_of_ne (s : State) (n m : Nat) (h : m ≠ n) :
    (State.commitAt vd res s n).laneAt vd m = s.laneAt vd m :=
  State.laneAt_commitLane_of_lane_ne vd vd s (n, res n) h

theorem State.vregAt_eq_of_vregs_eq {s t : State} (h : t.vregs = s.vregs) (v : VReg) : t.vregAt v = s.vregAt v := by
  rw [State.vregAt, State.vregAt, h]

theorem State.vregAt_commitAt_of_ne {v : VReg} (hv : v ≠ vd) (s : State) (n : Nat) :
    (State.commitAt vd res s n).vregAt v = s.vregAt v := by
  rw [State.commitAt, State.vregAt_eq_of_vregs_eq (State.commitLane_vregs vd s _), State.vregAt_writeLane_of_ne s hv]

theorem State.length_vregAt_commitAt (s : State) (n : Nat) :
    ((State.commitAt vd res s n).vregAt vd).length = (s.vregAt vd).length := by
  rw [State.commitAt, State.vregAt_eq_of_vregs_eq (State.commitLane_vregs vd s _), State.vregAt_writeLane_self,
    List.length_modify]

theorem State.laneAt_commitAt_self {s : State} {n : Nat} (hn : n < (s.vregAt vd).length) :
    (State.commitAt vd res s n).laneAt vd n = (s.laneAt vd n).overwrite s.format.l (res n).value := by
  rw [State.commitAt, State.laneAt_eq_of_vregs_eq (State.commitLane_vregs vd s _), State.laneAt_writeLane,
    if_pos ⟨rfl, hn⟩]

theorem State.doneAt_commitAt_of_ne (s : State) (n m : Nat) (h : m ≠ n) :
    (State.commitAt vd res s n).doneAt m = s.doneAt m := by
  rw [State.commitAt, State.commitLane_eq, State.doneAt, State.doneAt]
  split
  · exact getD_set_of_ne s.done h _ _
  · rfl

theorem State.doneAt_commitAt_self {s : State} {n : Nat} (hn : n < s.done.length) :
    (State.commitAt vd res s n).doneAt n = (s.doneAt n || (res n).saturated) := by
  have hset : (s.done.set n true).getD n false = true := getD_set_self hn _ _
  rw [State.commitAt, State.commitLane_eq, State.doneAt, State.doneAt]
  cases (res n).saturated
  · exact (Bool.or_false _).symm
  · exact hset.trans (Bool.or_true _).symm

theorem State.length_done_commitAt (s : State) (n : Nat) :
    (State.commitAt vd res s n).done.length = s.done.length := by
  rw [State.commitAt, State.commitLane_eq]
  split
  · exact List.length_set
  · rfl

/-! ### Committing every lane -/

/-- The carries of all lanes are counted (R152). -/
theorem State.mcarry_foldl_commitAt (s : State) (ns : List Nat) : (ns.foldl (State.commitAt vd res) s).mcarry =
    s.mcarry + BitVec.ofNat 32 (ns.map fun n => (res n).mcarries).sum := by
  induction ns generalizing s with
  | nil => simp
  | cons n ns ih =>
    have hn : (State.commitAt vd res s n).mcarry = s.mcarry + BitVec.ofNat 32 (res n).mcarries := by
      rw [State.commitAt, State.commitLane_eq]
    rw [List.foldl_cons, ih, hn, List.map_cons, List.sum_cons, BitVec.ofNat_add, BitVec.add_assoc]

/-- The lanes that saturate are counted (R250). -/
theorem State.acarry_foldl_commitAt (s : State) (ns : List Nat) : (ns.foldl (State.commitAt vd res) s).acarry =
    s.acarry + BitVec.ofNat 32 (ns.filter fun n => (res n).saturated).length := by
  induction ns generalizing s with
  | nil => simp
  | cons n ns ih =>
    have hn : (State.commitAt vd res s n).acarry = if (res n).saturated then s.acarry + 1 else s.acarry := by
      rw [State.commitAt, State.commitLane_eq]
    rw [List.foldl_cons, ih, hn, List.filter_cons]
    split
    · rw [List.length_cons, Nat.add_comm, BitVec.ofNat_add, ← BitVec.add_assoc]
      rfl
    · rfl

/-- The committing loop changes the containers, the done flags and the two counters only. -/
theorem State.foldl_commitAt_frame (s : State) (ns : List Nat) : ns.foldl (State.commitAt vd res) s =
    { s with
      vregs := (ns.foldl (State.commitAt vd res) s).vregs, done := (ns.foldl (State.commitAt vd res) s).done
      mcarry := (ns.foldl (State.commitAt vd res) s).mcarry
      acarry := (ns.foldl (State.commitAt vd res) s).acarry } := by
  induction ns generalizing s with
  | nil => rfl
  | cons n ns ih =>
    rw [List.foldl_cons, ih, State.commitAt, State.commitLane_eq]

/-- Results that do not saturate leave the done flags. -/
theorem State.foldl_commitAt_done {ns : List Nat} (h : ∀ n ∈ ns, (res n).saturated = false) (s : State) :
    (ns.foldl (State.commitAt vd res) s).done = s.done := by
  induction ns generalizing s with
  | nil => rfl
  | cons n ns ih =>
    obtain ⟨hn, hns⟩ := List.forall_mem_cons.1 h
    rw [List.foldl_cons, ih hns, State.commitAt, State.commitLane_eq, hn]
    rfl

theorem State.vregAt_foldl_commitAt_of_ne {v : VReg} (hv : v ≠ vd) (ns : List Nat) (s : State) :
    (ns.foldl (State.commitAt vd res) s).vregAt v = s.vregAt v := by
  induction ns generalizing s with
  | nil => rfl
  | cons n ns ih => rw [List.foldl_cons, ih, State.vregAt_commitAt_of_ne vd res hv]

theorem State.laneAt_foldl_commitAt_of_mem {s : State} {ns : List Nat} (hnodup : ns.Nodup) {m : Nat} (hm : m ∈ ns)
    (hlen : m < (s.vregAt vd).length) :
    (ns.foldl (State.commitAt vd res) s).laneAt vd m = (s.laneAt vd m).overwrite s.format.l (res m).value :=
  foldl_read_of_mem (read := fun s => s.laneAt vd)
    (val := fun (s : State) m => (s.laneAt vd m).overwrite s.format.l (res m).value) (P := fun (s : State) m => m < (s.vregAt vd).length) (State.laneAt_commitAt_of_ne vd res)
    (fun _ _ h => State.laneAt_commitAt_self vd res h)
    (fun s n m hne => by
      rw [State.laneAt_commitAt_of_ne vd res s n m hne, State.commitAt, State.commitLane_format])
    (fun s n _ h => by rwa [State.length_vregAt_commitAt]) hnodup hm hlen

theorem State.doneAt_foldl_commitAt_of_mem {s : State} {ns : List Nat} (hnodup : ns.Nodup) {m : Nat} (hm : m ∈ ns)
    (hlen : m < s.done.length) :
    (ns.foldl (State.commitAt vd res) s).doneAt m = (s.doneAt m || (res m).saturated) :=
  foldl_read_of_mem (val := fun (s : State) m => s.doneAt m || (res m).saturated) (P := fun (s : State) m => m < s.done.length)
    (State.doneAt_commitAt_of_ne vd res) (fun _ _ h => State.doneAt_commitAt_self vd res h)
    (fun s n m hne => by rw [State.doneAt_commitAt_of_ne vd res s n m hne])
    (fun s n _ h => by rwa [State.length_done_commitAt]) hnodup hm hlen

end

/-! ### The common vector procedure (R241) -/

theorem runLanes_of_ok {op : Nat → Except Cause Result} {res : Nat → Result} {ns : List Nat}
    (h : ∀ n ∈ ns, op n = .ok (res n)) : runLanes op ns = .ok (ns.map fun n => (n, res n)) := by
  induction ns with
  | nil => rfl
  | cons n ns ih =>
    obtain ⟨hn, hns⟩ := List.forall_mem_cons.1 h
    rw [runLanes, hn, ih hns]
    rfl

theorem vectorResult_of_ok {vd : VReg} {op : Nat → Except Cause Result} {res : Nat → Result} {s : State}
    (h : ∀ n, s.isActive n = true → op n = .ok (res n)) :
    vectorResult vd op s = .ok (s.activeLanes.foldl (State.commitAt vd res) s) := by
  rw [vectorResult, runLanes_of_ok fun n hn => h n ((s.mem_activeLanes n).1 hn)]
  exact congrArg Except.ok List.foldl_map

theorem exists_vectorResult_error {vd : VReg} {op : Nat → Except Cause Result} {s : State} {n : Nat} {c : Cause}
    (hn : s.isActive n = true) (hc : op n = .error c) : ∃ x, vectorResult vd op s = .error x := by
  cases hv : vectorResult vd op s with
  | error x => exact ⟨x, rfl⟩
  | ok t =>
    obtain ⟨rs, hrs, -⟩ := vectorResult_ok hv
    obtain ⟨hlanes, hok⟩ := runLanes_ok hrs
    have hmem : n ∈ rs.map Prod.fst := hlanes ▸ (s.mem_activeLanes n).2 hn
    obtain ⟨p, hp, rfl⟩ := List.mem_map.1 hmem
    cases hc.symm.trans (hok p hp)

section
variable {s : State} (hinv : s.Inv) (hs : s.Ready)
include hinv hs

theorem State.Inv.l_le_length_lane {n : Nat} (hn : n < s.params.vcap) (v : VReg) :
    s.format.l ≤ (s.laneAt v n).cells.length := by
  have hl := hinv.l_le_lMax hs.2
  obtain ⟨-, hshape, -⟩ := hinv
  rwa [hshape.length_lane hn]

/-- What the committing loop leaves in the containers: its results in the active lanes, and nothing else changed. -/
theorem foldl_commitAt_lanes (vd : VReg) (res : Nat → Result) :
    LanesFrame s (s.activeLanes.foldl (State.commitAt vd res) s) vd s.isActive ∧
      ∀ n, s.isActive n = true →
        SameNumber s.format.l ((s.activeLanes.foldl (State.commitAt vd res) s).laneAt vd n) (res n).value := by
  have hactive : ∀ n, s.isActive n = true → n < s.params.vcap ∧
      (s.activeLanes.foldl (State.commitAt vd res) s).laneAt vd n =
        (s.laneAt vd n).overwrite s.format.l (res n).value := fun n hn => by
    have hcap := hinv.lt_vcap_of_isActive hn
    have hlen : n < (s.vregAt vd).length := by
      obtain ⟨-, ⟨-, hv, -⟩, -⟩ := hinv
      rw [(hv vd).1]
      exact hcap
    exact ⟨hcap, State.laneAt_foldl_commitAt_of_mem vd res s.nodup_activeLanes ((s.mem_activeLanes n).2 hn) hlen⟩
  have hother : ∀ n, s.isActive n = false →
      (s.activeLanes.foldl (State.commitAt vd res) s).laneAt vd n = s.laneAt vd n := fun n hn =>
    foldl_read_of_notMem (read := fun s => s.laneAt vd) (State.laneAt_commitAt_of_ne vd res)
      (by rw [State.mem_activeLanes, hn]; exact Bool.false_ne_true) s
  refine ⟨⟨hother, fun n k hk => ?_, fun v hv => State.vregAt_foldl_commitAt_of_ne vd res hv _ s⟩, fun n hn => ?_⟩
  · cases hn : s.isActive n
    · rw [hother n hn]
    · rw [(hactive n hn).2, Number.cell_overwrite_of_le hk]
  · obtain ⟨hcap, hlane⟩ := hactive n hn
    rw [hlane]
    exact sameNumber_overwrite (hinv.l_le_length_lane hs hcap vd) _

/-- Everything a vector command does whose operation completes in every active lane. -/
theorem exec_vectorResult {i : Instr} {vd : VReg} {op : Nat → Except Cause Result} {res : Nat → Result}
    (hrule : commandRule i s.accept = vectorResult vd op s.accept)
    (hop : ∀ n, s.isActive n = true → op n = .ok (res n)) :
    ∃ t, exec i s = .next t ∧
      t = { s with
        cmdcnt := s.cmdcnt + 1, vregs := t.vregs, done := t.done
        mcarry := s.mcarry + BitVec.ofNat 32 (s.activeLanes.map fun n => (res n).mcarries).sum
        acarry := s.acarry + BitVec.ofNat 32 (s.activeLanes.filter fun n => (res n).saturated).length } ∧
      LanesFrame s t vd s.isActive ∧
      (∀ n, s.isActive n = true → SameNumber s.format.l (t.laneAt vd n) (res n).value) ∧
      (∀ n, t.doneAt n = (s.doneAt n || (s.isActive n && (res n).saturated))) ∧
      ((∀ n, s.isActive n = true → (res n).saturated = false) → t.done = s.done) := by
  have hok : commandRule i s.accept = .ok (s.accept.activeLanes.foldl (State.commitAt vd res) s.accept) :=
    hrule.trans (vectorResult_of_ok (s := s.accept) hop)
  obtain ⟨hframe, hlanes⟩ := foldl_commitAt_lanes (s := s.accept) hinv.accept hs vd res
  refine ⟨_, exec_of_rule_ok hs hok, ?_, hframe, hlanes, fun n => ?_, fun hsat => ?_⟩
  · rw [State.foldl_commitAt_frame, State.mcarry_foldl_commitAt, State.acarry_foldl_commitAt]
    rfl
  · cases hn : s.isActive n
    · rw [Bool.false_and, Bool.or_false]
      exact foldl_read_of_notMem (State.doneAt_commitAt_of_ne vd res)
        (by rw [State.mem_activeLanes, State.accept_isActive, hn]; exact Bool.false_ne_true) s.accept
    · rw [Bool.true_and]
      exact State.doneAt_foldl_commitAt_of_mem vd res s.accept.nodup_activeLanes ((s.accept.mem_activeLanes n).2 hn)
        (hinv.hasLane hn).2.2
  · exact State.foldl_commitAt_done vd res (fun n hn => hsat n ((s.accept.mem_activeLanes n).1 hn)) s.accept

/-- A vector command whose operation cannot fail or saturate. -/
theorem exec_vectorPlain {i : Instr} {vd : VReg} {a : Nat → Number}
    (hrule : commandRule i s.accept = vectorResult vd (fun n => .ok (.plain (a n))) s.accept) :
    ∃ t, exec i s = .next t ∧ t = { s with cmdcnt := s.cmdcnt + 1, vregs := t.vregs } ∧
      LanesFrame s t vd s.isActive ∧ ∀ n, s.isActive n = true → SameNumber s.format.l (t.laneAt vd n) (a n) := by
  obtain ⟨t, ht, heq, hframe, hlanes, -, hdone⟩ :=
    exec_vectorResult hinv hs (res := fun n => .plain (a n)) hrule fun _ _ => rfl
  refine ⟨t, ht, ?_, hframe, hlanes⟩
  rw [heq, hdone fun _ _ => rfl]
  simp [Result.plain]

end

/-! ### Moves (R242 to R246) -/

/-- Settles O55: the three moves give plain results. -/
theorem vectorMovesWriteActiveLanes : Obligations.VectorMovesWriteActiveLanes := by
  intro s hinv hs vd va sa
  have hf := hinv.format_legal hs.2
  refine ⟨exec_vectorPlain hinv hs rfl, ?_, exec_vectorPlain hinv hs rfl⟩
  obtain ⟨t, ht, heq, hframe, hlanes⟩ :=
    exec_vectorPlain hinv hs (i := .vldz vd) (a := fun _ => encSM s.format 0) rfl
  exact ⟨t, ht, heq, hframe, fun n hn => ⟨(holdsNumber_zero hf .sm).of_sameNumber hf (hlanes n hn),
    (holdsNumber_zero hf .tc).of_sameNumber hf (hlanes n hn)⟩⟩

/-- One lane write copies the Number and nothing else. -/
theorem lanesFrame_writeLane (s : State) (v : VReg) (n : Nat) (a : Number) :
    LanesFrame s (s.writeLane v n a) v (· == n) := by
  refine ⟨fun m hm => State.laneAt_writeLane_of_lane_ne s v v (by simpa using hm) a, fun m k hk => ?_,
    fun w hw => State.vregAt_writeLane_of_ne s hw n a⟩
  rw [State.laneAt_writeLane]
  split
  · rw [Number.cell_overwrite_of_le hk]
  · rfl

/-- Settles O56: a lane below `VCOUNT` exists, and one register or lane is written. -/
theorem laneMovesCopyOneLane : Obligations.LaneMovesCopyOneLane := by
  intro s hinv hs sr v lane _
  refine ⟨fun hlt => ⟨exec_writeSreg hinv hs (i := .vext sr v lane) (if_neg hlt.not_ge), ?_⟩, fun hle => ⟨?_, ?_⟩⟩
  · have hcap : lane < s.params.vcap := hlt.trans_le hinv.2.2.1.vcount_le
    have hlen : lane < (s.vregAt v).length := by
      obtain ⟨-, ⟨-, hv, -⟩, -⟩ := hinv
      rw [(hv v).1]
      exact hcap
    have hlane : (s.writeLane v lane (s.sregAt sr)).laneAt v lane = _ :=
      (s.laneAt_writeLane v lane lane (s.sregAt sr)).trans (if_pos ⟨rfl, hlen⟩)
    refine ⟨_, exec_of_rule_ok hs (i := .vins v sr lane) (if_neg hlt.not_ge), rfl,
      lanesFrame_writeLane s v lane (s.sregAt sr), ?_⟩
    exact hlane ▸ sameNumber_overwrite (hinv.l_le_length_lane hs hcap v) (s.sregAt sr)
  · exact commandFaults_of_rule (c := .laneRange) hs (if_pos hle)
  · exact commandFaults_of_rule (c := .laneRange) hs (if_pos hle)

/-! ### Sums (R250, R251) -/

/-- A vector command that writes a saturated value to each active lane. -/
theorem exec_vectorSaturate {s : State} (hinv : s.Inv) (hs : s.Ready) {i : Instr} {vd : VReg} {rep : Rep}
    {op : Nat → Except Cause Result} {x : Nat → Int} (hrule : commandRule i s.accept = vectorResult vd op s.accept)
    (hop : ∀ n, s.isActive n = true → op n = .ok (saturate s.format rep (x n))) :
    ∃ t, exec i s = .next t ∧
      t = { s with
        cmdcnt := s.cmdcnt + 1, vregs := t.vregs, done := t.done,
        acarry := s.acarry + BitVec.ofNat 32
          (s.activeLanes.filter fun n => !inrangeRep s.format rep (x n)).length } ∧
      LanesFrame s t vd s.isActive ∧
      (∀ n, s.isActive n = true → HoldsNumber s.format rep (t.laneAt vd n) (saturated s.format rep (x n))) ∧
      ∀ n, t.doneAt n = (s.doneAt n || (s.isActive n && !inrangeRep s.format rep (x n))) := by
  have hf := hinv.format_legal hs.2
  have hspec := fun n => saturate_spec hf rep (x n)
  obtain ⟨t, ht, heq, hframe, hlanes, hdone, -⟩ :=
    exec_vectorResult hinv hs (res := fun n => saturate s.format rep (x n)) hrule hop
  simp only [(hspec _).2.1, (hspec _).2.2] at heq hdone
  refine ⟨t, ht, ?_, hframe, fun n hn => (hspec n).1.of_sameNumber hf (hlanes n hn), hdone⟩
  rw [heq]
  simp

/-- Settles O57: both commands give saturated exact results. -/
theorem vectorAddSubSaturate : Obligations.VectorAddSubSaturate := by
  intro s hinv hs rep vd va vb hvalid
  simp only [List.forall_mem_cons]
  exact ⟨exec_vectorSaturate hinv hs rfl fun n hn => opAdd_of_valid (hvalid n hn).1 (hvalid n hn).2,
    exec_vectorSaturate hinv hs rfl fun n hn => opSub_of_valid (hvalid n hn).1 (hvalid n hn).2, nofun⟩

/-! ### Products (R247 to R249) -/

/-- A vector command whose operation is the range check of a product that is in range in every active lane. -/
theorem exec_vectorProduct {s : State} (hinv : s.Inv) (hs : s.Ready) {i : Instr} {vd : VReg} {rep : Rep}
    {op : Nat → Except Cause Result} {x : Nat → Int} {carries : Nat → Nat}
    (hrule : commandRule i s.accept = vectorResult vd op s.accept)
    (hop : ∀ n, s.isActive n = true → op n = productResult s.format rep (x n) (carries n))
    (hx : ∀ n, s.isActive n = true → inrangeRep s.format rep (x n) = true) :
    ∃ t, exec i s = .next t ∧
      t = { s with
        cmdcnt := s.cmdcnt + 1, vregs := t.vregs,
        mcarry := s.mcarry + BitVec.ofNat 32 (s.activeLanes.map carries).sum } ∧
      LanesFrame s t vd s.isActive ∧ ∀ n, s.isActive n = true → HoldsNumber s.format rep (t.laneAt vd n) (x n) := by
  have hf := hinv.format_legal hs.2
  obtain ⟨t, ht, heq, hframe, hlanes, -, hdone⟩ := exec_vectorResult hinv hs
    (res := fun n => { value := encRep s.format rep (x n), mcarries := carries n, saturated := false }) hrule
    fun n hn => (hop n hn).trans (productResult_of_inrange _ (hx n hn))
  refine ⟨t, ht, ?_, hframe, fun n hn => (holdsNumber_encRep hf (hx n hn)).of_sameNumber hf (hlanes n hn)⟩
  rw [heq, hdone fun _ _ => rfl]
  simp

/-- Settles O58: each product's operation is the range check of the exact value. -/
theorem vectorProductsWriteActiveLanes : Obligations.VectorProductsWriteActiveLanes := by
  intro s hinv hs rep vd va vb k hk
  have hf := hinv.format_legal hs.2
  refine ⟨fun h => ?_, fun h => ?_, fun h => ?_⟩
  · exact exec_vectorProduct (i := .vmul rep vd va vb) hinv hs rfl
      (fun n hn => opMul_eq_productResult hf (h n hn).1 (h n hn).2.1) fun n hn => (h n hn).2.2
  · exact exec_vectorProduct (i := .vsqr rep vd va) hinv hs rfl
      (fun n hn => opSqr_eq_productResult hf (h n hn).1) fun n hn => (h n hn).2
  · exact exec_vectorProduct (i := .vmuli rep vd va k) hinv hs rfl
      (fun n hn => opMuli_eq_productResult hf (h n hn).1 hk (h n hn).2.1) fun n hn => (h n hn).2.2

/-! ### The threshold compare (R252) -/

theorem ruleVcmpt_of_valid {rep : Rep} {va : VReg} {s : State}
    (h : ∀ n, s.isActive n = true → validRep s.format rep (s.laneAt va n) = true) :
    ruleVcmpt rep va s = .ok (s.mapEsc fun n e => if s.isActive n then s.geThr rep (s.laneAt va n) else e) := by
  have hok : validateLanes s.format rep (s.laneAt va) s.activeLanes = .ok () :=
    (validateLanes_ok _ _ _ _).2 fun n hn => h n ((s.mem_activeLanes n).1 hn)
  rw [ruleVcmpt, hok]
  rfl

theorem exists_ruleVcmpt_error {rep : Rep} {va : VReg} {s : State} {n : Nat} (hn : s.isActive n = true)
    (hbad : ¬ validRep s.format rep (s.laneAt va n) = true) : ∃ x, ruleVcmpt rep va s = .error x := by
  rw [ruleVcmpt]
  cases hv : validateLanes s.format rep (s.laneAt va) s.activeLanes with
  | error x => exact ⟨x, rfl⟩
  | ok => exact absurd ((validateLanes_ok _ _ _ _).1 hv n ((s.mem_activeLanes n).2 hn)) hbad

/-- `VCMPT` of valid active lanes. -/
theorem exec_vcmpt {s : State} (hinv : s.Inv) (hs : s.Ready) (rep : Rep) (va : VReg)
    (hvalid : ∀ n, s.isActive n = true → validRep s.format rep (s.laneAt va n) = true) :
    ∃ t, exec (.vcmpt rep va) s = .next t ∧ t = { s with cmdcnt := s.cmdcnt + 1, esc := t.esc } ∧
      ∀ n, t.escAt n = if s.isActive n then s.geThr rep (s.laneAt va n) else s.escAt n := by
  have hrule : commandRule (.vcmpt rep va) s.accept =
      .ok (s.accept.mapEsc fun n e => if s.isActive n then s.geThr rep (s.laneAt va n) else e) :=
    ruleVcmpt_of_valid (s := s.accept) hvalid
  refine ⟨_, exec_of_rule_ok hs hrule, rfl, fun n => ?_⟩
  have hread : ∀ g : Nat → Bool → Bool, (s.esc.mapIdx g).getD n false =
      if n < s.esc.length then g n (s.escAt n) else false := fun g => by
    rw [State.escAt, List.getD_eq_getElem?_getD, List.getElem?_mapIdx, List.getD_eq_getElem?_getD]
    by_cases h : n < s.esc.length <;> simp [h]
  refine (hread _).trans ?_
  by_cases hlen : n < s.esc.length
  · rw [if_pos hlen]
  · have hinactive : ¬ s.isActive n = true := fun hn => hlen (hinv.hasLane hn).1
    rw [if_neg hlen, if_neg hinactive, State.escAt, List.getD_eq_default _ _ (by omega)]

/-- Settles O59. -/
theorem vcmptWritesEscapeFlags : Obligations.VcmptWritesEscapeFlags := fun _ hinv hs rep va hvalid =>
  exec_vcmpt hinv hs rep va hvalid

/-! ### Vector commands as scalar commands (R253) -/

section
variable (s : State) (va vb : VReg) (n : Nat)

theorem State.sregAt_withLaneInScalars_zero : (s.withLaneInScalars va vb n).sregAt 0 = s.laneAt va n := by
  simp [State.withLaneInScalars, State.sregAt]

theorem State.sregAt_withLaneInScalars_one : (s.withLaneInScalars va vb n).sregAt 1 = s.laneAt vb n := by
  simp [State.withLaneInScalars, State.sregAt]

theorem State.sregAt_withLaneInScalars_two : (s.withLaneInScalars va vb n).sregAt 2 = s.sregAt 2 := by
  simp [State.withLaneInScalars, State.sregAt]

end

/-- A vector command and a scalar command with the lanes' operation. -/
theorem vector_agrees_with_scalar {s : State} (hinv : s.Inv) (hs : s.Ready) {i j : Instr} {vd va vb : VReg}
    {op : Nat → Except Cause Result} (hi : commandRule i s.accept = vectorResult vd op s.accept)
    (hj : ∀ n, commandRule j (s.withLaneInScalars va vb n).accept =
      scalarResult 2 (op n) (s.withLaneInScalars va vb n).accept) :
    ∃ t, exec i s = .next t ∧
      (t.faultV = true ↔
        ∃ n u, s.isActive n = true ∧ exec j (s.withLaneInScalars va vb n) = .next u ∧ u.faultV = true) ∧
      (t.faultV = false → ∀ n, s.isActive n = true → ∃ u, exec j (s.withLaneInScalars va vb n) = .next u ∧
        SameNumber s.format.l (t.laneAt vd n) (u.sregAt 2)) := by
  have hscalar : ∀ n r, op n = .ok r → ∃ u, exec j (s.withLaneInScalars va vb n) = .next u ∧ u.faultV = false ∧
      SameNumber s.format.l (u.sregAt 2) r.value := fun n r hr => by
    have hrule := hj n
    rw [hr] at hrule
    refine ⟨_, exec_of_rule_ok hs hrule, ?_, ?_⟩
    · rw [State.countResult_eq]
      exact hs.1
    · rw [State.countResult_eq]
      have hat : ((s.withLaneInScalars va vb n).writeSreg 2 r.value).sregAt 2 =
          (s.sregAt 2).overwrite s.format.l r.value := by
        rw [State.sregAt_writeSreg_self, State.sregAt_withLaneInScalars_two]
        rfl
      exact hat ▸ sameNumber_overwrite (hinv.l_le_length_sreg hs.2 2) r.value
  by_cases hall : ∀ n, s.isActive n = true → ∃ r, op n = .ok r
  · have : Nonempty Result := ⟨.plain (s.sregAt 0)⟩
    choose! res hres using hall
    obtain ⟨t, ht, heq, -, hlanes, -⟩ := exec_vectorResult hinv hs hi hres
    have htv : t.faultV = false := by rw [heq]; exact hs.1
    refine ⟨t, ht, ⟨fun h => absurd (htv.symm.trans h) Bool.noConfusion, ?_⟩, fun _ n hn => ?_⟩
    · rintro ⟨n, u, hn, hu, huv⟩
      obtain ⟨u', hu', huv', -⟩ := hscalar n _ (hres n hn)
      cases hu.symm.trans hu'
      exact absurd (huv'.symm.trans huv) Bool.noConfusion
    · obtain ⟨u, hu, -, hsame⟩ := hscalar n _ (hres n hn)
      exact ⟨u, hu, (hlanes n hn).trans hsame.symm⟩
  · obtain ⟨n, hn, hno⟩ := not_forall₂.1 hall
    obtain ⟨c, hc⟩ : ∃ c, op n = .error c := by
      cases hop : op n with
      | error c => exact ⟨c, rfl⟩
      | ok r => exact absurd ⟨r, hop⟩ hno
    obtain ⟨x, hx⟩ := exists_vectorResult_error (vd := vd) (s := s.accept) hn hc
    have hjerror := hj n
    rw [hc] at hjerror
    refine ⟨_, exec_of_rule_error hs (hi.trans hx), ⟨fun _ => ⟨n, _, hn, exec_of_rule_error hs hjerror, rfl⟩,
      fun _ => rfl⟩, fun h => absurd h Bool.noConfusion⟩

/-- `VCMPT` of a lane and `CMPT` of the lane in a register. -/
theorem exec_cmpt_withLaneInScalars {s : State} (hs : s.Ready) (rep : Rep) (va : VReg) (n : Nat) :
    ∃ u, exec (.cmpt rep 0) (s.withLaneInScalars va va n) = .next u ∧
      (u.faultV = true ↔ validRep s.format rep (s.laneAt va n) = false) ∧
      (validRep s.format rep (s.laneAt va n) = true → u.ge = s.geThr rep (s.laneAt va n)) := by
  have hlane := s.sregAt_withLaneInScalars_zero va va n
  cases hv : validRep s.format rep (s.laneAt va n)
  · have hrule : commandRule (.cmpt rep 0) (s.withLaneInScalars va va n).accept = .error (.unlaned .operandInvalid) :=
      if_neg fun h => Bool.false_ne_true (hv.symm.trans (hlane ▸ h))
    exact ⟨_, exec_of_rule_error hs hrule, by simp, nofun⟩
  · have hrule : commandRule (.cmpt rep 0) (s.withLaneInScalars va va n).accept =
        .ok ((s.withLaneInScalars va va n).accept.setGe (s.geThr rep ((s.withLaneInScalars va va n).sregAt 0))) :=
      if_pos (hlane.symm ▸ hv)
    rw [hlane] at hrule
    refine ⟨_, exec_of_rule_ok hs hrule, ⟨fun h => ?_, nofun⟩, fun _ => rfl⟩
    exact absurd (hs.1.symm.trans h) Bool.noConfusion

/-- `VCMPT` and `CMPT` agree. -/
theorem vcmpt_agrees_with_cmpt {s : State} (hinv : s.Inv) (hs : s.Ready) (rep : Rep) (va : VReg) :
    ∃ t, exec (.vcmpt rep va) s = .next t ∧
      (t.faultV = true ↔ ∃ n u, s.isActive n = true ∧
        exec (.cmpt rep 0) (s.withLaneInScalars va va n) = .next u ∧ u.faultV = true) ∧
      (t.faultV = false → ∀ n, s.isActive n = true → ∃ u,
        exec (.cmpt rep 0) (s.withLaneInScalars va va n) = .next u ∧ t.escAt n = u.ge) := by
  have hcmpt := exec_cmpt_withLaneInScalars hs rep va
  by_cases hvalid : ∀ n, s.isActive n = true → validRep s.format rep (s.laneAt va n) = true
  · obtain ⟨t, ht, heq, hesc⟩ := exec_vcmpt hinv hs rep va hvalid
    have htv : t.faultV = false := by rw [heq]; exact hs.1
    refine ⟨t, ht, ⟨fun h => absurd (htv.symm.trans h) Bool.noConfusion, ?_⟩, fun _ n hn => ?_⟩
    · rintro ⟨n, u, hn, hu, huv⟩
      obtain ⟨u', hu', hfault, -⟩ := hcmpt n
      cases hu.symm.trans hu'
      exact absurd ((hvalid n hn).symm.trans (hfault.1 huv)) Bool.noConfusion
    · obtain ⟨u, hu, -, hge⟩ := hcmpt n
      exact ⟨u, hu, by rw [hesc, if_pos hn, hge (hvalid n hn)]⟩
  · obtain ⟨n, hn, hbad⟩ := not_forall₂.1 hvalid
    obtain ⟨x, hx⟩ := exists_ruleVcmpt_error (s := s.accept) hn hbad
    obtain ⟨u, hu, hfault, -⟩ := hcmpt n
    exact ⟨_, exec_of_rule_error hs (i := .vcmpt rep va) hx,
      ⟨fun _ => ⟨n, u, hn, hu, hfault.2 (Bool.eq_false_of_not_eq_true hbad)⟩, fun _ => rfl⟩,
      fun h => absurd h Bool.noConfusion⟩

section
variable (s : State) (va vb : VReg)

theorem scalarResult_withLaneInScalars_unary (op : Number → Except Cause Result) (n : Nat) :
    scalarResult 2 (op ((s.withLaneInScalars va vb n).sregAt 0)) (s.withLaneInScalars va vb n).accept =
      scalarResult 2 (op (s.laneAt va n)) (s.withLaneInScalars va vb n).accept := by
  rw [State.sregAt_withLaneInScalars_zero]

theorem scalarResult_withLaneInScalars_binary (op : Number → Number → Except Cause Result) (n : Nat) :
    scalarResult 2 (op ((s.withLaneInScalars va vb n).sregAt 0) ((s.withLaneInScalars va vb n).sregAt 1))
        (s.withLaneInScalars va vb n).accept =
      scalarResult 2 (op (s.laneAt va n) (s.laneAt vb n)) (s.withLaneInScalars va vb n).accept := by
  rw [State.sregAt_withLaneInScalars_zero, State.sregAt_withLaneInScalars_one]

end

/-- Settles O60: a vector command's operation on a lane is its scalar command's on the registers that hold the lane. -/
theorem scalarVectorAgreement : Obligations.ScalarVectorAgreement := by
  intro s hinv hs
  refine ⟨fun i j vd va vb h => ?_, vcmpt_agrees_with_cmpt hinv hs⟩
  have hunary := scalarResult_withLaneInScalars_unary s va vb
  have hbinary := scalarResult_withLaneInScalars_binary s va vb
  cases i with
  | vadd rep =>
    cases h
    exact vector_agrees_with_scalar hinv hs rfl (hbinary (opAdd s.format rep))
  | vsub rep =>
    cases h
    exact vector_agrees_with_scalar hinv hs rfl (hbinary (opSub s.format rep))
  | vmul rep =>
    cases h
    exact vector_agrees_with_scalar hinv hs rfl (hbinary (opMul s.format rep))
  | vsqr rep =>
    cases h
    exact vector_agrees_with_scalar hinv hs rfl (hunary (opSqr s.format rep))
  | vmuli rep _ _ k =>
    cases h
    exact vector_agrees_with_scalar hinv hs rfl (hunary (opMuli s.format rep · k))
  | _ => cases h

end Sys2Proof.Machine
end

section
/-! PROOFS. Runs and their ends (R285, R360): what one move of the host can do, the moves through which a run goes on, and what
stands in the state at its end. Settled here: O42. -/

namespace Sys2Proof.Machine

/-! ### One move of the host -/

theorem HostEvent.command?_eq_some {e : HostEvent} {i : Instr} :
    e.command? = some i ↔ ∃ w, e.commandWord? = some w ∧ decode w = .ok i := by
  unfold HostEvent.command?
  cases e.commandWord? with
  | none => simp
  | some w => cases h : decode w <;> simp [h]

theorem HostEvent.isUpddone_iff {e : HostEvent} :
    e.isUpddone = true ↔ ∃ rep va, e.command? = some (.upddone rep va) := by
  unfold HostEvent.isUpddone
  split
  · simp [*]
  · simp_all

/-- A command write runs its word (R64). -/
theorem serve_of_commandWord? {e : HostEvent} {w : Word} (h : e.commandWord? = some w) (s : State) :
    serve e s = runWord w s := by
  cases e with
  | read | reset => simp at h
  | write o data =>
    rw [HostEvent.commandWord?_write] at h
    split at h
    case isTrue hok =>
      obtain ⟨hok, ho⟩ := Bool.and_eq_true_iff.1 hok
      cases h
      rw [serve, hostWrite, if_pos hok, if_pos (eq_of_beq ho)]
    case isFalse => simp at h

theorem serve_of_command? {e : HostEvent} {i : Instr} (h : e.command? = some i) (s : State) : serve e s = exec i s := by
  obtain ⟨w, hw, hd⟩ := HostEvent.command?_eq_some.1 h
  rw [serve_of_commandWord? hw, runWord_of_decode hd]

theorem HostEvent.ne_reset_of_commandWord? {e : HostEvent} {w : Word} (h : e.commandWord? = some w) : e ≠ .reset := by
  rintro rfl
  simp at h

/-- Everything a move other than the reset can do: it runs a word, it writes a slot, or it sets the model's port fields and
`STATUS.BUSERR` at most. -/
theorem serve_cases {e : HostEvent} {s t : State} (he : e ≠ .reset) (h : serve e s = .next t) :
    (∃ w, e.commandWord? = some w ∧ runWord w s = .next t) ∨
      (∃ o data v, e = .write o data ∧ o.toNat % 8 = 0 ∧ t = s.writeSlot (slotOf s.params o.toNat) v) ∨
      t = { s with hostData := t.hostData, buserr := t.buserr } := by
  cases hw : e.commandWord? with
  | some w => exact .inl ⟨w, rfl, (serve_of_commandWord? hw s).symm.trans h⟩
  | none =>
    refine .inr ?_
    cases e with
    | reset => exact absurd rfl he
    | read o n =>
      cases h
      unfold hostRead
      split <;> exact .inr rfl
    | write o data =>
      rw [HostEvent.commandWord?_write] at hw
      simp only [serve, hostWrite] at h
      split_ifs at h hw with hok ho hcmd
      · exact absurd (Bool.and_eq_true_iff.2 ⟨hok, beq_iff_eq.2 ho⟩) hcmd
      · have halign : o.toNat % 8 = 0 := by
          simp only [accessOk, Bool.and_eq_true, beq_iff_eq] at hok
          exact hok.2
        cases h
        exact .inl ⟨o, data, _, rfl, halign, rfl⟩
      · cases h
        exact .inr rfl

theorem State.writeSlot_host (s : State) (sl : Slot) (v : Cell) : (s.writeSlot sl v).host = s.host := by
  cases sl with
  | csr c =>
    cases c with
    | fault => simp only [State.writeSlot, State.writeCsr]; split <;> rfl
    | _ => rfl
  | _ => rfl

theorem State.faultV_of_writeSlot {s : State} {sl : Slot} {v : Cell} (h : (s.writeSlot sl v).faultV = true) :
    s.faultV = true := by
  cases sl with
  | csr c =>
    cases c with
    | fault =>
      simp only [State.writeSlot, State.writeCsr] at h
      split at h
      · exact Bool.noConfusion h
      · exact h
    | _ => exact h
  | _ => exact h

theorem runWord_host {w : Word} {s t : State} (h : runWord w s = .next t) : t.host = s.host := by
  rcases runWord_cases h with ⟨-, rfl⟩ | ⟨-, w', x, rfl⟩ | ⟨-, i, -, hw⟩
  · rfl
  · rfl
  · exact hw.keeps (P := fun t => t.host = s.host) (fun _ _ hr hs => by rw [hr.frame]; exact hs) rfl

/-- A step takes one move off the host's list. -/
theorem step_host {s t : State} {e : HostEvent} {es : List HostEvent} (hs : s.host = e :: es) (he : e ≠ .reset)
    (h : step s = .next t) : t.host = es := by
  rw [step_cons hs] at h
  rcases serve_cases he h with ⟨w, -, hw⟩ | ⟨o, data, v, -, -, rfl⟩ | ht
  · exact runWord_host hw
  · exact State.writeSlot_host _ _ v
  · rw [ht]

/-- A word that leaves a fault recorded was dropped or faulted, and changed no count, done flag or lane. -/
theorem runWord_of_faultV_next {w : Word} {s t : State} (h : runWord w s = .next t) (ht : t.faultV = true) :
    t.count = s.count ∧ t.done = s.done ∧ t.vregs = s.vregs := by
  rcases runWord_cases h with ⟨-, rfl⟩ | ⟨-, w', x, rfl⟩ | ⟨hv, i, -, hw⟩
  · exact ⟨rfl, rfl, rfl⟩
  · exact ⟨rfl, rfl, rfl⟩
  · have hkeep : t.faultV = s.accept.faultV :=
      hw.keeps (P := fun t => t.faultV = s.accept.faultV) (fun _ _ hr hs => hr.faultV_eq.trans hs) rfl
    exact absurd (hv.symm.trans (hkeep.symm.trans ht)) Bool.noConfusion

/-- A fault is recorded by a command only (R311). -/
theorem serve_of_faultV_next {e : HostEvent} {s t : State} (he : e ≠ .reset) (h : serve e s = .next t)
    (hs : s.faultV = false ∨ e.commandWord? ≠ none) (ht : t.faultV = true) :
    t.count = s.count ∧ t.done = s.done ∧ t.vregs = s.vregs := by
  cases hw : e.commandWord? with
  | some w => exact runWord_of_faultV_next ((serve_of_commandWord? hw s).symm.trans h) ht
  | none =>
    have hv : s.faultV = false := hs.resolve_right fun hne => hne hw
    have hno : s.faultV ≠ true := by rw [hv]; exact Bool.false_ne_true
    rcases serve_cases he h with ⟨w, hw', -⟩ | ⟨o, data, v, -, -, rfl⟩ | heq
    · exact absurd (hw.symm.trans hw') (Option.some_ne_none w).symm
    · exact absurd (State.faultV_of_writeSlot ht) hno
    · rw [heq] at ht
      exact absurd ht hno

/-! ### A run going on (R360) -/

/-- From s a run goes on through k moves to t: none is the reset, and after none of them is a fault recorded or has an `UPDDONE`
left no group in play. -/
inductive GoesOn : Nat → State → State → Prop
  | none (s : State) : GoesOn 0 s s
  | move {k : Nat} {e : HostEvent} {es : List HostEvent} {s t u : State} (hs : s.host = e :: es) (he : e ≠ .reset)
      (h : step s = .next t) (hv : t.faultV = false) (hin : e.isUpddone = true → t.ipempty = false)
      (hrest : GoesOn k t u) : GoesOn (k + 1) s u

section
variable {k : Nat} {s t : State} (h : GoesOn k s t)
include h

theorem GoesOn.stepMany_eq : stepMany k s = .next t := by
  induction h with
  | none => rfl
  | move _ _ hstep _ _ _ ih => rw [stepMany_succ_of_next hstep, ih]

theorem GoesOn.inv (hs : s.Inv) : t.Inv := by
  induction h with
  | none => exact hs
  | move _ _ hstep _ _ _ ih => exact ih (hs.step hstep)

theorem GoesOn.faultV (hk : 0 < k) : t.faultV = false := by
  induction h with
  | none => omega
  | move _ _ _ hv _ hrest ih =>
    cases hrest with
    | none => exact hv
    | move => exact ih (by omega)

/-- No fault is recorded on the way. -/
theorem GoesOn.faultV_between {j : Nat} {v : State} (hj : 0 < j) (hjk : j ≤ k) (hv : stepMany j s = .next v) :
    v.faultV = false := by
  induction h generalizing j with
  | none => omega
  | move _ _ hstep hvt _ _ ih =>
    obtain ⟨j, rfl⟩ := Nat.exists_eq_succ_of_ne_zero hj.ne'
    rw [stepMany_succ_of_next hstep] at hv
    rcases Nat.eq_zero_or_pos j with rfl | hpos
    · cases hv
      exact hvt
    · exact ih hpos (by omega) hv

/-- No `UPDDONE` on the way leaves no group in play. -/
theorem GoesOn.ipempty_between {j : Nat} {v w : State} {m : HostEvent} {ms : List HostEvent} (hjk : j < k)
    (hv : stepMany j s = .next v) (hm : v.host = m :: ms) (hupd : m.isUpddone = true) (hw : step v = .next w) :
    w.ipempty = false := by
  induction h generalizing j with
  | none => omega
  | move hs _ hstep _ hin _ ih =>
    cases j with
    | zero =>
      cases hv
      cases hs.symm.trans hm
      cases hstep.symm.trans hw
      exact hin hupd
    | succ j =>
      rw [stepMany_succ_of_next hstep] at hv
      exact ih (by omega) hv

end

/-- Where a run ends: after some moves that it goes on through, the next move ends it badly or well. -/
theorem exists_goesOn_of_followRun {r : RunEnd} {es : List HostEvent} {s : State} (hs : s.host = es)
    (hr : followRun es s = r) : r = .abandoned ∨ r = .reset ∨ ∃ k t u e es', GoesOn k s t ∧ t.host = e :: es' ∧
      e ≠ .reset ∧ step t = .next u ∧
      ((u.faultV = true ∧ r = .bad (badOutput t u)) ∨
        (u.faultV = false ∧ e.isUpddone = true ∧ u.ipempty = true ∧ r = .well u.runOutput)) := by
  induction es generalizing s with
  | nil => exact .inl hr.symm
  | cons e es ih =>
    by_cases he : e = .reset
    · subst he
      exact .inr (.inl (by rw [← hr, followRun_reset]))
    · obtain ⟨t, ht⟩ := step_next (s := s) (by simp [hs])
      have hself : ({ s with host := e :: es } : State) = s := by rw [← hs]
      rw [followRun_cons he (hself.symm ▸ ht)] at hr
      split_ifs at hr with hv hend
      · exact .inr (.inr ⟨0, s, t, e, es, .none s, hs, he, ht, .inl ⟨hv, hr.symm⟩⟩)
      · obtain ⟨hupd, hempty⟩ := Bool.and_eq_true_iff.1 hend
        exact .inr (.inr ⟨0, s, t, e, es, .none s, hs, he, ht,
          .inr ⟨Bool.eq_false_of_not_eq_true hv, hupd, hempty, hr.symm⟩⟩)
      · refine (ih (step_host hs he ht) hr).imp_right (Or.imp_right ?_)
        rintro ⟨k, v, u, e', es', hgo, hlast⟩
        refine ⟨k + 1, v, u, e', es', .move hs he ht (Bool.eq_false_of_not_eq_true hv) (fun hupd => ?_) hgo, hlast⟩
        exact Bool.eq_false_of_not_eq_true fun hempty => hend (Bool.and_eq_true_iff.2 ⟨hupd, hempty⟩)

/-! ### The output of a good end (R360) -/

/-- An `UPDDONE` that leaves no fault ran in a ready block, and its rule completed. -/
theorem ready_of_upddone {rep : Rep} {va : VReg} {s t : State} (h : exec (.upddone rep va) s = .next t)
    (ht : t.faultV = false) : s.Ready ∧ ruleUpddone rep va s.accept = .ok t := by
  rw [exec_eq_runCommand] at h
  rcases runCommand_cases h with ⟨hv, rfl⟩ | ⟨-, -, -, rfl⟩ | ⟨-, -, x, -, rfl⟩ | ⟨hv, hc, hr⟩
  · exact absurd (hv.symm.trans ht) Bool.noConfusion
  · exact Bool.noConfusion ht
  · exact Bool.noConfusion ht
  · exact ⟨⟨hv, hc rfl⟩, hr⟩

theorem configured_of_ruleUpddone {rep : Rep} {va : VReg} {s t : State} (h : ruleUpddone rep va s = .ok t) :
    t.configured = s.configured := by
  rw [ruleUpddone_ok h, State.dropRetiredGroups_configured, State.foldl_updateLane_frame]

/-- Every lane below `VCOUNT` is done. -/
def State.AllDone (s : State) : Prop := ∀ n, n < s.vcount.toNat → s.doneAt n = true

theorem exists_getD_of_mem_take {α : Type} {xs : List α} {m : Nat} {x : α} (h : x ∈ xs.take m) (d : α) :
    ∃ n, n < m ∧ xs.getD n d = x := by
  obtain ⟨n, hn, rfl⟩ := List.getElem_of_mem h
  rw [List.length_take] at hn
  exact ⟨n, by omega, by rw [List.getElem_take, List.getD_eq_getElem]⟩

theorem State.Inv.length_runOutput {s : State} (hinv : s.Inv) :
    s.runOutput.count.length = s.vcount.toNat ∧ s.runOutput.done.length = s.vcount.toNat := by
  have hcap := hinv.2.2.1.vcount_le
  obtain ⟨-, ⟨-, -, -, hd, -, hcount⟩, -⟩ := hinv
  simp only [State.runOutput, List.length_take]
  omega

section
variable {s : State} (hinv : s.Inv) (hc : s.configured = true)
include hinv hc

/-- With no group in play every lane is done (R280). -/
theorem State.Inv.allDone_of_ipempty (hempty : s.ipempty = true) : s.AllDone := by
  intro n hn
  have hout := (State.ipempty_iff s).1 hempty (n / 4)
  have hmul : s.vcount.toNat % 4 = 0 := by
    obtain ⟨-, -, ⟨-, hconf⟩, -⟩ := hinv
    obtain ⟨-, -, -, hm, -⟩ := hconf hc
    exact hm
  have hgroup : s.groupDone (n / 4) = true := Bool.eq_true_of_not_eq_false fun hd =>
    Bool.false_ne_true (hout.symm.trans (hinv.inplayAt_of_not_groupDone (by omega) hd))
  have hlane := (State.groupDone_iff s _).1 hgroup (n % 4) (Nat.mod_lt _ (by decide))
  rwa [Nat.div_add_mod] at hlane

theorem State.Inv.runOutput_of_allDone (hall : s.AllDone) :
    (∀ d ∈ s.runOutput.done, d = true) ∧ s.runOutput.dsum = 2 := by
  have hpos := hinv.four_le_vcount hc
  refine ⟨fun d hd => ?_, (State.dsum_eq_two_iff s).2 ⟨by omega, hall⟩⟩
  obtain ⟨n, hn, rfl⟩ := exists_getD_of_mem_take hd false
  exact hall n hn

end

/-! ### Scalar programs (R360) -/

theorem movesToLastCommand_eq_zero_iff (es : List HostEvent) :
    movesToLastCommand es = 0 ↔ ∀ m ∈ es, m.commandWord? = none := by
  induction es with
  | nil => simp [movesToLastCommand]
  | cons e es ih =>
    rw [movesToLastCommand, List.forall_mem_cons, ← ih]
    cases e.commandWord? <;> by_cases h : movesToLastCommand es = 0 <;> simp [h, Nat.pos_iff_ne_zero]

/-- The last command write among the host's moves, and the state that it leads to. -/
theorem exists_last_command {es : List HostEvent} {s : State} (hs : s.host = es) (hreset : ∀ e ∈ es, e ≠ .reset)
    (hcmd : ∃ e ∈ es, e.commandWord? ≠ none) :
    ∃ k v e es' t, stepMany k s = .next v ∧ v.host = e :: es' ∧ e.commandWord? ≠ none ∧ step v = .next t ∧
      (∀ m ∈ es', m.commandWord? = none) ∧ movesToLastCommand es = k + 1 ∧ stepMany (k + 1) s = .next t := by
  induction es generalizing s with
  | nil => simp at hcmd
  | cons e es ih =>
    obtain ⟨he, hrest⟩ := List.forall_mem_cons.1 hreset
    obtain ⟨t, ht⟩ := step_next (s := s) (by simp [hs])
    by_cases hlater : ∃ m ∈ es, m.commandWord? ≠ none
    · obtain ⟨k, v, e', es', u, hk, hv, hword, hu, hnone, hmoves, hsteps⟩ := ih (step_host hs he ht) hrest hlater
      refine ⟨k + 1, v, e', es', u, ?_, hv, hword, hu, hnone, ?_, ?_⟩
      · rw [stepMany_succ_of_next ht, hk]
      · rw [movesToLastCommand, if_pos (by omega), hmoves]
      · rw [stepMany_succ_of_next ht, hsteps]
    · push Not at hlater
      have hword : e.commandWord? ≠ none := by
        obtain ⟨m, hm, hne⟩ := hcmd
        rcases List.mem_cons.1 hm with rfl | hm
        · exact hne
        · exact absurd (hlater m hm) hne
      refine ⟨0, s, e, es, t, rfl, hs, hword, ht, hlater, ?_, by rw [stepMany_succ_of_next ht, stepMany_zero]⟩
      rw [movesToLastCommand, (movesToLastCommand_eq_zero_iff es).2 hlater, if_neg (by decide),
        if_pos (Option.isSome_iff_ne_none.2 hword)]

theorem HostEvent.inScalarProgram_of {e : HostEvent} (he : e ≠ .reset)
    (h : ∀ i, e.command? = some i → isScalarCommand i = true) : e.inScalarProgram = true := by
  cases e with
  | reset => exact absurd rfl he
  | read => rfl
  | write =>
    simp only [HostEvent.inScalarProgram]
    split
    case h_1 i hi => exact h i hi
    case h_2 => rfl

/-! ### Where runs end -/

/-- A good end: what stands in the state after the `UPDDONE` that left no group in play. -/
theorem allDone_of_good_end {t u : State} {e : HostEvent} {es : List HostEvent} (ht : t.Inv) (hhost : t.host = e :: es)
    (hupd : e.isUpddone = true) (hstep : step t = .next u) (hv : u.faultV = false) (hempty : u.ipempty = true) :
    u.Inv ∧ u.configured = true ∧ u.AllDone := by
  have hinv : u.Inv := ht.step hstep
  obtain ⟨rep, va, hcmd⟩ := HostEvent.isUpddone_iff.1 hupd
  rw [step_cons hhost, serve_of_command? hcmd] at hstep
  obtain ⟨⟨-, hready⟩, hr⟩ := ready_of_upddone hstep hv
  have hc : u.configured = true := (configured_of_ruleUpddone hr).trans hready
  exact ⟨hinv, hc, hinv.allDone_of_ipempty hc hempty⟩

/-- Settles O42: a run goes on up to its end; a good end is read off the state after it, a bad end's move changed no count, done
flag or lane. -/
theorem runsEndWhereTheSpecSays : Obligations.RunsEndWhereTheSpecSays := by
  refine ⟨fun s out hinv hrun => ?_, fun s out hinv hrun => ?_, fun s h => ?_, fun s hscalar hcmd => ?_⟩
  · obtain ⟨e, es, hs, -, hfollow⟩ := State.run_eq_some.1 hrun
    rw [hs] at hfollow
    obtain hr | hr | ⟨k, t, u, e', es', hgo, hhost, -, hstep, ⟨-, hr⟩ | ⟨hv, hupd, hempty, hr⟩⟩ :=
      exists_goesOn_of_followRun hs hfollow
    · cases hr
    · cases hr
    · cases hr
    cases hr
    obtain ⟨huinv, hc, hall⟩ := allDone_of_good_end (hgo.inv hinv) hhost hupd hstep hv hempty
    obtain ⟨hlen, hlen'⟩ := huinv.length_runOutput
    obtain ⟨hdone, hdsum⟩ := huinv.runOutput_of_allDone hc hall
    have hfour := huinv.four_le_vcount hc
    refine ⟨k, t, u, e', es', hgo.stepMany_eq, hhost, hupd, hstep, ⟨hempty, hv⟩,
      fun j v hj hjk hjv => hgo.faultV_between hj hjk hjv,
      fun j v w m ms hjk hjv hm hmu hw => hgo.ipempty_between hjk hjv hm hmu hw, rfl, rfl, rfl, rfl, rfl, by omega,
      by omega, hdone, hdsum, _, State.protocolOutput_eq_some.2 ⟨_, hrun, rfl⟩, hdsum, hlen, fun n hn => ?_,
      fun points hp => ?_⟩
    · have hlt : n < u.count.length := by
        simp only [State.runOutput, List.length_take] at hlen
        omega
      simp [State.runOutput, State.countAt, hn, hlt]
    · simp [ProtocolOutput.points, State.runOutput, List.take_take, hp]
  · obtain ⟨e, es, hs, ho, hfollow⟩ := State.run_eq_some.1 hrun
    rw [hs] at hfollow
    obtain hr | hr | ⟨k, t, u, e', es', hgo, hhost, he, hstep, ⟨hv, hr⟩ | ⟨-, -, -, hr⟩⟩ :=
      exists_goesOn_of_followRun hs hfollow
    · cases hr
    · cases hr
    · cases hr
      obtain ⟨-, -, -, ⟨-, hcause⟩, -⟩ := (hgo.inv hinv).step hstep
      obtain ⟨hone, hten⟩ := hcause hv
      have hcommand : t.faultV = false ∨ e'.commandWord? ≠ none := by
        rcases Nat.eq_zero_or_pos k with rfl | hk
        · cases hgo
          cases hs.symm.trans hhost
          obtain ⟨w, hw, -⟩ := HostEvent.command?_eq_some.1 ho
          exact .inr (by simp [hw])
        · exact .inl (hgo.faultV hk)
      have hserve := hstep
      rw [step_cons hhost] at hserve
      obtain ⟨hcount, hdone, hvregs⟩ := serve_of_faultV_next he hserve hcommand hv
      exact ⟨k, t, u, hgo.stepMany_eq, hstep, hv, fun j v hj hjk hjv => hgo.faultV_between hj hjk hjv,
        fun j v w m ms hjk hjv hm hmu hw => hgo.ipempty_between hjk hjv hm hmu hw, hone, hten, rfl, rfl, rfl, rfl,
        hcount, hdone, hvregs, by rw [State.protocolOutput, hrun]; rfl⟩
    · cases hr
  · rcases h with h | h <;> rw [State.protocolOutput, h] <;> rfl
  · obtain ⟨k, v, e, es, t, hk, hv, hword, hstep, hnone, hmoves, hsteps⟩ :=
      exists_last_command (s := s) rfl (fun e he => (hscalar e he).1) hcmd
    refine ⟨k, v, e, es, t, hk, hv, hword, hstep, ?_, hnone⟩
    have hprogram : (s.host.take (k + 1)).all (·.inScalarProgram) = true := List.all_eq_true.2 fun m hm =>
      HostEvent.inScalarProgram_of (hscalar m (List.mem_of_mem_take hm)).1 (hscalar m (List.mem_of_mem_take hm)).2
    simp [State.scalarProgramOutput, hmoves, hprogram, hsteps]

end Sys2Proof.Machine
end

section
/-! PROOFS. Runs terminate (R284): while the host leaves `COUNT` and `TARGET` alone, every lane to do counts the `UPDDONE`
commands of the run, and it is done once they are max(`TARGET`, 1). Settled here: O25. -/

namespace Sys2Proof.Machine

/-! ### Moves that leave the run -/

/-- From s to t no group enters or leaves play, a done lane stays done, and the counts, `TARGET` and `CONFIGURED` stay. -/
structure KeepsRun (s t : State) : Prop where
  keepsDone : KeepsDone s t
  count : t.count = s.count
  target : t.target = s.target
  configured : t.configured = s.configured

theorem count_of_scalarResult {sd : SReg} {x : Except Cause Result} {s t : State} (h : scalarResult sd x s = .ok t) :
    t.count = s.count := by
  obtain ⟨r, -, rfl⟩ := scalarResult_ok h
  rw [State.countResult_eq]
  rfl

theorem count_of_loadScaled {rep : Rep} {sd : SReg} {x : Int} {c : Cause} {s t : State}
    (h : loadScaled rep sd x c s = .ok t) : t.count = s.count := by
  obtain ⟨-, rfl⟩ := loadScaled_ok h
  rfl

theorem count_of_vectorResult {vd : VReg} {op : Nat → Except Cause Result} {s t : State}
    (h : vectorResult vd op s = .ok t) : t.count = s.count := by
  obtain ⟨rs, -, rfl⟩ := vectorResult_ok h
  refine List.foldlRecOn (motive := fun (t : State) => t.count = s.count) rs _ rfl fun t ht nr _ => ?_
  rw [← ht, State.commitLane_eq]

/-- No rule but those of `UPDDONE`, `ORST` and `CONSTRUCT` writes a count. -/
theorem commandRule_count {i : Instr} {s t : State} (hc : i ≠ .construct) (ho : i ≠ .orst)
    (hu : ∀ rep va, i ≠ .upddone rep va) (h : commandRule i s = .ok t) : t.count = s.count := by
  cases i with
  | construct => exact absurd rfl hc
  | orst => exact absurd rfl ho
  | upddone rep va => exact absurd rfl (hu rep va)
  | nop | mov | ldz | ldmax | limblen | tzlimb | chk => cases h; rfl
  | ldi | split => exact count_of_loadScaled h
  | totc => exact count_of_loadScaled (ruleTotc_ok h)
  | add | sub | mul | sqr | muli => exact count_of_scalarResult h
  | fromtc => rw [ruleFromtc_ok h]; rfl
  | vext => rw [ruleVext_ok h]; rfl
  | cmpt => rw [ruleCmpt_ok h]; rfl
  | cmpm => rw [ruleCmpm_ok h]; rfl
  | join => rw [ruleJoin_ok h]; rfl
  | vmov | vldz | vbcast | vadd | vsub | vmul | vsqr | vmuli => exact count_of_vectorResult h
  | vins => rw [ruleVins_ok h]; rfl
  | vcmpt => rw [ruleVcmpt_ok h]; rfl

theorem keepsRun_of_commandRule {i : Instr} {s t : State} (hc : i ≠ .construct) (ho : i ≠ .orst)
    (hu : ∀ rep va, i ≠ .upddone rep va) (h : commandRule i s = .ok t) : KeepsRun s t where
  keepsDone := commandRule_keepsDone hc ho hu h
  count := commandRule_count hc ho hu h
  target := (commandRule_writes h).keeps (P := fun t => t.target = s.target)
    (fun _ _ hr hs => by rw [hr.frame]; exact hs) rfl
  configured := (commandRule_writes h).keeps (P := fun t => t.configured = s.configured)
    (fun _ _ hr hs => (hr.configured_eq hc).trans hs) rfl

/-- What writes none of these registers keeps them. -/
theorem KeepsRun.of_eq {s t : State} (hp : t.params = s.params) (hv : t.vcount = s.vcount) (hi : t.inplay = s.inplay)
    (hd : t.done = s.done) (hcount : t.count = s.count) (htarget : t.target = s.target)
    (hconf : t.configured = s.configured) : KeepsRun s t :=
  ⟨.of_eq hp hv hi hd hcount, hcount, htarget, hconf⟩

theorem keepsRun_of_runWord {w : Word} {s t : State} (h : runWord w s = .next t)
    (hi : ∀ i, decode w = .ok i → i ≠ .construct ∧ i ≠ .orst ∧ ∀ rep va, i ≠ .upddone rep va) : KeepsRun s t := by
  have hfault : ∀ w x, KeepsRun s (s.faulted w x) := fun _ _ => .of_eq rfl rfl rfl rfl rfl rfl rfl
  have hdrop : KeepsRun s s.drop := .of_eq rfl rfl rfl rfl rfl rfl rfl
  cases hd : decode w with
  | error e =>
    rw [runWord_of_illegal hd, runIllegal] at h
    split at h
    · cases h; exact hdrop
    · cases h; exact hfault _ _
  | ok i =>
    obtain ⟨hc, ho, hu⟩ := hi i hd
    rw [runWord_of_decode hd] at h
    rcases exec_cases h with ⟨-, rfl⟩ | ⟨-, x, rfl⟩ | ⟨-, hr⟩
    · exact hdrop
    · exact hfault _ x
    · obtain ⟨⟨hp, hv, hin, hdone, hcount⟩, hcount', htarget, hconf⟩ := keepsRun_of_commandRule hc ho hu hr
      exact ⟨⟨hp, hv, hin, hdone, hcount⟩, hcount', htarget, hconf⟩

/-- A slot that is neither a count nor `TARGET` leaves the run. -/
theorem keepsRun_writeSlot (s : State) {sl : Slot} (v : Cell) (hc : ∀ n, sl ≠ .count n) (ht : sl ≠ .csr .target) :
    KeepsRun s (s.writeSlot sl v) := by
  cases sl with
  | csr c =>
    cases c with
    | target => exact absurd rfl ht
    | fault =>
      simp only [State.writeSlot, State.writeCsr]
      split <;> exact .of_eq rfl rfl rfl rfl rfl rfl rfl
    | _ => exact .of_eq rfl rfl rfl rfl rfl rfl rfl
  | count n => exact absurd rfl (hc n)
  | _ => exact .of_eq rfl rfl rfl rfl rfl rfl rfl

/-- The offsets of the counts (R85). -/
theorem count_range_of_slotOf {p : Params} {o n : Nat} (h : slotOf p o = .count n) : 0x4000 ≤ o ∧ o < 0x6000 := by
  simp only [slotOf, ite_eq_iff, csrOf_ne_count, scalarSlot_ne_count, laneSlot_ne_count, reduceCtorEq, and_false,
    or_false, false_or] at h
  omega

theorem eq_of_csrOf_target {c : Nat} (h : csrOf c = .csr .target) : c = 0x0E := by
  unfold csrOf at h
  split at h <;> simp_all

theorem scalarSlot_ne_csr (p : Params) (r k : Nat) (c : Csr) : scalarSlot p r k ≠ .csr c := by
  unfold scalarSlot
  split_ifs <;> exact Slot.noConfusion

theorem laneSlot_ne_csr (p : Params) (v k n : Nat) (c : Csr) : laneSlot p v k n ≠ .csr c := by
  unfold laneSlot
  split_ifs <;> exact Slot.noConfusion

/-- The offset of `TARGET` (R50). -/
theorem offset_of_slotOf_target {p : Params} {o : Nat} (ha : o % 8 = 0) (h : slotOf p o = .csr .target) : o = 0x070 := by
  have hcsr : csrOf (o / 8) = .csr .target := by
    simp only [slotOf, ite_eq_iff, scalarSlot_ne_csr, laneSlot_ne_csr, reduceCtorEq, and_false, or_false] at h
    exact h.2
  have hplace := eq_of_csrOf_target hcsr
  omega

/-- A move that R284 allows, other than an `UPDDONE`, leaves the run. -/
theorem keepsRun_of_serve {e : HostEvent} {s t : State} (he : e.LeavesRun) (hu : e.isUpddone ≠ true)
    (h : serve e s = .next t) : KeepsRun s t := by
  obtain ⟨hreset, ho, hc, hslot⟩ := he
  rcases serve_cases hreset h with ⟨w, hword, hw⟩ | ⟨o, data, v, rfl, ha, rfl⟩ | heq
  · refine keepsRun_of_runWord hw fun i hi => ?_
    have hcmd : e.command? = some i := HostEvent.command?_eq_some.2 ⟨w, hword, hi⟩
    refine ⟨?_, ?_, ?_⟩
    · rintro rfl
      exact hc hcmd
    · rintro rfl
      exact ho hcmd
    · rintro rep va rfl
      exact hu (HostEvent.isUpddone_iff.2 ⟨rep, va, hcmd⟩)
  · simp only [HostEvent.writesCountOrTarget, Bool.or_eq_false_iff, Bool.and_eq_false_iff, beq_eq_false_iff_ne,
      decide_eq_false_iff_not] at hslot
    obtain ⟨htarget, hcount⟩ := hslot
    refine keepsRun_writeSlot s v (fun n hn => ?_) fun hn => htarget ?_
    · obtain ⟨hlo, hhi⟩ := count_range_of_slotOf hn
      omega
    · exact BitVec.eq_of_toNat_eq (offset_of_slotOf_target ha hn)
  · rw [heq]
    exact .of_eq rfl rfl rfl rfl rfl rfl rfl

/-! ### A run under way (R284) -/

/-- A run of this `TARGET` is under way and has had this many `UPDDONE` commands: every lane to do has counted them, and a lane
that is done has at most max(`TARGET`, 1) counts. -/
structure State.MidRun (target passes : Nat) (s : State) : Prop where
  inv : s.Inv
  configured : s.configured = true
  target_eq : s.target.toNat = target
  passes_le : passes ≤ max target 1
  count_done : ∀ n, n < s.vcount.toNat → s.doneAt n = true → (s.countAt n).toNat ≤ max target 1
  count_todo : ∀ n, n < s.vcount.toNat → s.doneAt n = false → (s.countAt n).toNat = passes

/-- No count is past max(`TARGET`, 1). -/
theorem State.MidRun.count_le {target passes : Nat} {s : State} (h : s.MidRun target passes) {n : Nat}
    (hn : n < s.vcount.toNat) : (s.countAt n).toNat ≤ max target 1 := by
  cases hd : s.doneAt n
  · rw [h.count_todo n hn hd]
    exact h.passes_le
  · exact h.count_done n hn hd

theorem State.MidRun.of_keepsRun {target passes : Nat} {s t : State} (h : s.MidRun target passes) (hk : KeepsRun s t)
    (hinv : t.Inv) : t.MidRun target passes where
  inv := hinv
  configured := hk.configured.trans h.configured
  target_eq := by rw [hk.target, h.target_eq]
  passes_le := h.passes_le
  count_done n hn _ := by
    rw [hk.keepsDone.vcount] at hn
    rw [State.countAt, hk.count]
    exact h.count_le hn
  count_todo n hn hd := by
    rw [hk.keepsDone.vcount] at hn
    rw [State.countAt, hk.count]
    exact h.count_todo n hn (Bool.eq_false_of_not_eq_true fun hs =>
      Bool.false_ne_true (hd.symm.trans (hk.keepsDone.done n hs)))

/-- In a run under way a lane below `VCOUNT` that is to do is active (R280). -/
theorem State.Inv.isActive_of_todo {s : State} (hinv : s.Inv) (hc : s.configured = true) {n : Nat}
    (hn : n < s.vcount.toNat) (hd : s.doneAt n = false) : s.isActive n = true := by
  have hmul : s.vcount.toNat % 4 = 0 := by
    obtain ⟨-, -, ⟨-, hconf⟩, -⟩ := hinv
    obtain ⟨-, -, -, hm, -⟩ := hconf hc
    exact hm
  refine (s.isActive_iff n).2 ⟨hn, hinv.inplayAt_of_not_groupDone (by omega) ?_, hd⟩
  exact (s.groupDone_eq_false_iff _).2 ⟨n % 4, Nat.mod_lt _ (by decide), by rwa [Nat.div_add_mod]⟩

theorem valid_of_ruleUpddone {rep : Rep} {va : VReg} {s t : State} (h : ruleUpddone rep va s = .ok t) (n : Nat)
    (hn : s.isActive n = true) : validRep s.format rep (s.laneAt va n) = true := by
  unfold ruleUpddone at h
  split at h
  · simp at h
  · next hok => exact (validateLanes_ok _ _ _ _).1 hok n ((s.mem_activeLanes n).2 hn)

/-- An `UPDDONE` of a run under way: one pass more, `VCOUNT` as before, and once the passes are max(`TARGET`, 1) no group is left
in play. -/
theorem State.MidRun.upddone {target passes : Nat} {rep : Rep} {va : VReg} {s t : State} (h : s.MidRun target passes)
    (hlt : passes < max target 1) (hstep : exec (.upddone rep va) s = .next t) (ht : t.faultV = false) :
    t.MidRun target (passes + 1) ∧ t.vcount = s.vcount ∧ (max target 1 ≤ passes + 1 → t.ipempty = true) := by
  obtain ⟨hready, hr⟩ := ready_of_upddone hstep ht
  obtain ⟨hinv, hc, htarget, -, -, htodo⟩ := id h
  have htargetlt : s.target.toNat < 2 ^ 16 := s.target.isLt
  have hvalid : ∀ n, s.isActive n = true → validRep s.format rep (s.laneAt va n) = true :=
    valid_of_ruleUpddone (s := s.accept) hr
  obtain ⟨t', ht', hframe, hactive, hidle, -⟩ := upddoneLaneByLane s hinv hready rep va hvalid
  obtain rfl : t = t' := Host.Outcome.next.inj (hstep.symm.trans ht')
  have hvcount : t.vcount = s.vcount := by rw [hframe]
  have hpass : ∀ n, n < s.vcount.toNat → s.doneAt n = false → (t.countAt n).toNat = passes + 1 ∧
      (t.doneAt n = false → ¬ target ≤ passes + 1) := fun n hn hd => by
    obtain ⟨-, hcount, hdone⟩ := hactive n (hinv.isActive_of_todo hc hn hd)
    have hval : (t.countAt n).toNat = passes + 1 := by
      rw [hcount, BitVec.toNat_add, htodo n hn hd]
      exact Nat.mod_eq_of_lt (by simp; omega)
    refine ⟨hval, fun hnot hle => ?_⟩
    rw [hdone.2 (.inr (by omega))] at hnot
    exact Bool.noConfusion hnot
  have hold : ∀ n, s.doneAt n = true → t.countAt n = s.countAt n ∧ t.doneAt n = true := fun n hd => by
    obtain ⟨-, hcount, hdone⟩ := hidle n ((s.isActive_eq_false_iff n).2 (.inl hd))
    exact ⟨hcount, hdone.trans hd⟩
  refine ⟨⟨hinv.exec hstep, by rw [hframe]; exact hc, by rw [hframe]; exact htarget, hlt, fun n hn _ => ?_,
    fun n hn hd => ?_⟩, hvcount, fun hle => ?_⟩
  · rw [hvcount] at hn
    cases hd : s.doneAt n
    · rw [(hpass n hn hd).1]
      exact hlt
    · rw [(hold n hd).1]
      exact h.count_done n hn hd
  · rw [hvcount] at hn
    cases hs : s.doneAt n
    · exact (hpass n hn hs).1
    · exact absurd (hd.symm.trans (hold n hs).2) Bool.noConfusion
  · have hexact : t.InPlayExact := commandRule_inPlayExact (s := s.accept) hinv (.inr (.inr ⟨rep, va, rfl⟩)) hr
    refine (State.ipempty_iff t).2 fun g => Bool.eq_false_of_not_eq_true fun hg => ?_
    obtain ⟨hlt', j, hj, hd⟩ := (hexact g).1 hg
    rw [hvcount] at hlt'
    cases hs : s.doneAt (4 * g + j)
    · exact (hpass _ (by omega) hs).2 hd (by omega)
    · exact absurd (hd.symm.trans (hold _ hs).2) Bool.noConfusion

/-- A run under way ends. -/
theorem State.MidRun.ends {target : Nat} {es : List HostEvent} {passes : Nat} {s : State}
    (h : s.MidRun target passes) (hs : s.host = es) (hes : ∀ m ∈ es, m.LeavesRun) (hlt : passes < max target 1)
    (hmany : max target 1 ≤ passes + (es.filter (·.isUpddone)).length) :
    (∃ out, followRun es s = .bad out) ∨ ∃ (u : State) (passes' : Nat),
      followRun es s = .well u.runOutput ∧ u.MidRun target passes' ∧ u.vcount = s.vcount ∧ u.ipempty = true := by
  induction es generalizing passes s with
  | nil =>
    rw [List.filter_nil, List.length_nil] at hmany
    omega
  | cons e es ih =>
    obtain ⟨he, hrest⟩ := List.forall_mem_cons.1 hes
    obtain ⟨t, ht⟩ := step_next (s := s) (by simp [hs])
    have hself : ({ s with host := e :: es } : State) = s := by rw [← hs]
    have htinv : t.Inv := h.inv.step ht
    have hthost : t.host = es := step_host hs he.1 ht
    rw [followRun_cons he.1 (hself.symm ▸ ht)]
    by_cases hv : t.faultV = true
    · exact .inl ⟨_, if_pos hv⟩
    rw [if_neg hv]
    rw [step_cons hs] at ht
    have hrun : ({ s with host := es } : State).MidRun target passes :=
      ⟨h.inv, h.configured, h.target_eq, h.passes_le, h.count_done, h.count_todo⟩
    by_cases hupd : e.isUpddone = true
    · obtain ⟨rep, va, hcmd⟩ := HostEvent.isUpddone_iff.1 hupd
      rw [serve_of_command? hcmd] at ht
      obtain ⟨hmid, hvcount, hend⟩ := hrun.upddone hlt ht (Bool.eq_false_of_not_eq_true hv)
      by_cases hempty : t.ipempty = true
      · rw [hupd, hempty]
        exact .inr ⟨t, _, rfl, hmid, hvcount, hempty⟩
      · rw [Bool.eq_false_of_not_eq_true hempty, Bool.and_false, if_neg Bool.false_ne_true]
        have hless : passes + 1 < max target 1 := not_le.1 fun hle => hempty (hend hle)
        simp only [List.filter_cons, if_pos hupd, List.length_cons] at hmany
        obtain hbad | ⟨u, p, hwell, humid, huv, hue⟩ := ih hmid hthost hrest hless (by omega)
        · exact .inl hbad
        · exact .inr ⟨u, p, hwell, humid, huv.trans hvcount, hue⟩
    · rw [Bool.eq_false_of_not_eq_true hupd, Bool.false_and, if_neg Bool.false_ne_true]
      have hkeep := keepsRun_of_serve he hupd ht
      simp only [List.filter_cons, if_neg hupd] at hmany
      obtain hbad | ⟨u, p, hwell, humid, huv, hue⟩ := ih (hrun.of_keepsRun hkeep htinv) hthost hrest hlt hmany
      · exact .inl hbad
      · exact .inr ⟨u, p, hwell, humid, huv.trans hkeep.keepsDone.vcount, hue⟩

/-- Settles O25: `ORST` puts a run of no passes under way, which ends; at a good end no group is in play. -/
theorem runsTerminate : Obligations.RunsTerminate := by
  intro s e es hinv hready hs ho hes hmany
  have hreset : e ≠ .reset := by
    obtain ⟨w, hw, -⟩ := HostEvent.command?_eq_some.1 ho
    exact HostEvent.ne_reset_of_commandWord? hw
  have hupd : e.isUpddone = false := Bool.eq_false_of_not_eq_true fun h => by
    obtain ⟨rep, va, hcmd⟩ := HostEvent.isUpddone_iff.1 h
    cases ho.symm.trans hcmd
  obtain ⟨t, ht, hframe, -, hclear, -⟩ := orstStartsARun { s with host := es } hinv hready
  have hstep : step s = .next t := by rw [step_cons hs, serve_of_command? ho, ht]
  have hself : ({ s with host := e :: es } : State) = s := by rw [← hs]
  have hv : t.faultV = false := by rw [hframe]; exact hready.1
  have hmid : t.MidRun s.target.toNat 0 := ⟨hinv.step hstep, by rw [hframe]; exact hready.2, by rw [hframe],
    Nat.zero_le _, fun n _ _ => by rw [(hclear n).2.2]; exact Nat.zero_le _, fun n _ _ => by rw [(hclear n).2.2]; rfl⟩
  have hrun : s.run = some (followRun es t) := State.run_eq_some.2 ⟨e, es, hs, ho, by
    rw [hs, followRun_cons hreset (hself.symm ▸ hstep), hv, hupd, Bool.false_and, if_neg Bool.false_ne_true,
      if_neg Bool.false_ne_true]⟩
  rw [hrun]
  obtain ⟨out, hbad⟩ | ⟨u, passes, hwell, humid, huv, hempty⟩ :=
    hmid.ends (step_host hs hreset hstep) hes (by omega) (by omega)
  · exact .inl ⟨out, by rw [hbad]⟩
  · have hvcount : u.vcount = s.vcount := by rw [huv, hframe]
    obtain ⟨hlen, hlen'⟩ := humid.inv.length_runOutput
    obtain ⟨hdone, hdsum⟩ := humid.inv.runOutput_of_allDone humid.configured
      (humid.inv.allDone_of_ipempty humid.configured hempty)
    refine .inr ⟨u.runOutput, by rw [hwell], hvcount ▸ hlen, hvcount ▸ hlen', hdone, hdsum, fun c hc => ?_⟩
    obtain ⟨n, hn, rfl⟩ := exists_getD_of_mem_take hc 0
    exact humid.count_le hn

end Sys2Proof.Machine
end
